-- ==== Sys2Proof/Word.lean ====
section
/-! DEFINITION. The bit-vector names of the model: a byte and the unsigned value of a byte. -/

namespace Sys2Proof

/-- A byte of a buffer or of an output grid (20_memory.md R46). -/
abbrev Byte := BitVec 8

/-- The value of a register access on the host's side, wide enough for every register (10_state.md R14). -/
abbrev BusValue := BitVec 64

end Sys2Proof
end

