-- ==== Sys2Proof/Syntax.lean ====
section
/-! DEFINITION. The words the host and the hardware exchange: the four operations, the command word's fields, the
register names of 10_state.md R14 and the host events. -/

namespace Sys2Proof

/-- The operations of the hardware (00_scope.md R2, 30_encoding.md R77), one constructor per row of
spec/opcode_table.json. No operand is carried in a command word (R76). -/
inductive Instr where
  /-- `RESOLVE`, 41_color_lut.md R87. -/
  | resolve
  /-- `OFFSET`, 42_block_index.md R93. -/
  | offset
  /-- `DECODE`, 43_block_decoder.md R98. -/
  | decode
  /-- `RENDER`, 44_area_renderer.md R106. -/
  | render
deriving DecidableEq, Repr

/-- The two fields of a command word (30_encoding.md R76). -/
structure RawCommand where
  /-- Bits 31:8, which must be 0. -/
  zero : BitVec 24
  /-- Bits 7:0, the operation code. -/
  op : BitVec 8
deriving DecidableEq, Repr

/-- The registers of 10_state.md R14. -/
inductive Reg where
  | blockSize | gridH | gridV | tileDim
  | startH | startV | sizeH | sizeV
  | code | coordH | coordV | srcOff | srcLen
  | cmd | status
  | errKind | errH | errV | errOff | errCode
  | resRgb | resOff | outW | outH
  | lutLen | mapLen
  /-- Entry `i` of the block register file (R39). -/
  | blk (i : Fin 64)
deriving DecidableEq, Repr

/-- Who may write a register (R14): the host and no command, or the hardware only. -/
inductive Access where
  | readWrite
  | readOnly
deriving DecidableEq, Repr

/-- The two output address spaces (20_memory.md R49, R50). -/
inductive Grid where
  | colour
  | height
deriving DecidableEq, Repr

/-- The four byte-addressed address spaces (10_state.md R42, 20_memory.md R46). -/
inductive Space where
  | lut
  | map
  | grid (g : Grid)
deriving DecidableEq, Repr

/-- What the host, or the reset line, may do to the machine (10_state.md R40, 20_memory.md R46,
70_reset_and_hazards.md R141). -/
inductive HostEvent where
  /-- `RegRead(i)`. -/
  | regRead (index : Nat)
  /-- `RegWrite(i, v)`; index 13 is `CMD` and starts a command (R29). -/
  | regWrite (index : Nat) (value : BusValue)
  /-- A read of one byte of an output grid. -/
  | gridRead (grid : Grid) (offset : Nat)
  /-- A hardware reset. -/
  | hardwareReset
deriving DecidableEq, Repr

end Sys2Proof
end

