-- ==== Sys2Proof/Decode.lean ====
section
/-! DEFINITION. The decoder of command words, total on every 32-bit word, and the encoder (30_encoding.md R76, R77,
R83). -/

namespace Sys2Proof

/-- Why a command word selects no operation (30_encoding.md R83). -/
inductive ReservedWord where
  /-- `ZERO` is not 0. -/
  | zeroFieldNotZero (zero : BitVec 24)
  /-- `OP` is 0x00 or in 0x05 to 0xFF. -/
  | opReserved (op : BitVec 8)
deriving DecidableEq, Repr

/-- A command word is one of the four operations or reserved, by name (30_encoding.md R83). -/
inductive Decoded where
  | instr (i : Instr)
  | reserved (why : ReservedWord)
deriving DecidableEq, Repr

/-- The fields of a command word: `ZERO` in bits 31:8, `OP` in bits 7:0 (30_encoding.md R76). -/
def RawCommand.ofWord (w : BitVec 32) : RawCommand :=
  { zero := w.extractLsb' 8 24, op := w.extractLsb' 0 8 }

/-- The operation map (30_encoding.md R77). -/
def Instr.ofOp (op : BitVec 8) : Option Instr :=
  match op.toNat with
  | 1 => some .resolve
  | 2 => some .offset
  | 3 => some .decode
  | 4 => some .render
  | _ => none

/-- The decoder of command words: `ZERO` must be 0, then `OP` selects (30_encoding.md R76, R77, R83). -/
def decodeCommand (w : BitVec 32) : Decoded :=
  let raw := RawCommand.ofWord w
  if raw.zero = 0#24 then
    match Instr.ofOp raw.op with
    | some i => .instr i
    | none => .reserved (.opReserved raw.op)
  else .reserved (.zeroFieldNotZero raw.zero)

/-- The operation code of an operation (30_encoding.md R77). -/
def Instr.op : Instr → BitVec 8
  | .resolve => 0x01#8
  | .offset => 0x02#8
  | .decode => 0x03#8
  | .render => 0x04#8

/-- The command word of an operation: 24 zero bits above its operation code (30_encoding.md R76, R77). -/
def encode (i : Instr) : BitVec 32 := 0#24 ++ i.op

/-- The command word whose bits are `w`, numbered as spec/opcode_table.json numbers them, cut to `nbits` bits; none
where a bit above the 32 of a command word is set. A command word is a register value, so it has no byte order
(20_memory.md R51). -/
def tableWord (nbits w : Nat) : Option (BitVec 32) :=
  let v := w % 2 ^ nbits
  if v < 2 ^ 32 then some (BitVec.ofNat 32 v) else none

/-- The operation the decoder reads from a table word. -/
def decodeTableWord (nbits w : Nat) : Option Instr :=
  match tableWord nbits w with
  | none => none
  | some word =>
    match decodeCommand word with
    | .instr i => some i
    | .reserved _ => none

end Sys2Proof
end

