-- ==== Sys2Proof/Config.lean ====
section
/-! DEFINITION. What is fixed for the machine: the constants of 00_scope.md R5, the hardwired register of
10_state.md R19, and the free values, which have no body, so that nothing can be proved of them. -/

namespace Sys2Proof.Config

/-- Length in bytes of one block record (R5 `BLOCK_BYTES`). -/
abbrev blockBytes : Nat := 196

/-- Length of the ignored header of a record (R5 `HDR_BYTES`). -/
abbrev hdrBytes : Nat := 4

/-- Bytes of one cell entry (R5 `CELL_BYTES`). -/
abbrev cellBytes : Nat := 3

/-- Cell entries of one block (R5 `CELLS`). -/
abbrev cells : Nat := 64

/-- Columns of a tile (R5 `TILE_W`). -/
abbrev tileW : Nat := 8

/-- Rows of a tile (R5 `TILE_H`). -/
abbrev tileH : Nat := 8

/-- Bytes of one look-up entry (R5 `LUT_ENTRY_BYTES`). -/
abbrev lutEntryBytes : Nat := 2

/-- Length of a look-up buffer that covers every code (R5 `LUT_FULL_LEN`). -/
abbrev lutFullLen : Nat := 131072

/-- Bits of an RGB555 channel (R5 `CHAN_BITS`). -/
abbrev chanBits : Nat := 5

/-- Left shift that makes an 8-bit channel (R5 `CHAN_SHIFT`). -/
abbrev chanShift : Nat := 3

/-- What is added to a height to make a grey level (R5 `HEIGHT_BIAS`). -/
abbrev heightBias : Int := 128

/-- The hardwired value of `TILE_DIM` (R19): `TILE_W` in bits 7:0, `TILE_H` in bits 15:8. -/
abbrev tileDim : BitVec 16 := 0x0808#16

/-- The value `BLOCK_SIZE` takes on a reset (R16, R142). -/
abbrev blockSizeReset : BitVec 16 := 196#16

/-- A FREE VALUE: what entry `i` of `BLK` holds, or a host read of it answers, where the spec leaves it
unspecified (10_state.md R39, 70_reset_and_hazards.md R149); `draw` numbers the draws. -/
opaque freeEntry (draw i : Nat) : BitVec 32

/-- A FREE VALUE: what a host read of a grid byte that holds no specified value answers
(44_area_renderer.md R112, 70_reset_and_hazards.md R149); `draw` numbers the draws. -/
opaque freeByte (draw : Nat) : Byte

end Sys2Proof.Config
end

