-- ==== Sys2Proof/Machine/State.lean ====
section
/-! DEFINITION. The state of the machine as plain data, the reasons a step can stop, the state after reset and the
state after a launch. -/

namespace Sys2Proof.Machine

/-- An output address space: the bytes that hold a specified value, by rising offset. An offset that is not listed
holds no specified value (10_state.md R44; log entry 9). -/
abbrev Memory := List Host.Cell

/-- An input buffer (00_scope.md R7): its length in bytes, below 2^64, and its bytes that are not 0, by rising
offset; a byte inside the length that is not listed is 0 (log entry 5). -/
structure Buffer where
  len : BitVec 64
  cells : List Host.Cell
deriving DecidableEq, Repr

/-- The state (10_state.md R13), with the two launch parameters (R38) and, last, the three fields of the model's
own. `TILE_DIM` is hardwired and has no storage (R19; log entry 12). -/
structure State where
  blockSize : BitVec 16
  gridH : BitVec 16
  gridV : BitVec 16
  startH : BitVec 16
  startV : BitVec 16
  sizeH : BitVec 16
  sizeV : BitVec 16
  code : BitVec 16
  coordH : BitVec 16
  coordV : BitVec 16
  srcOff : BitVec 64
  srcLen : BitVec 16
  cmd : BitVec 32
  status : BitVec 32
  errKind : BitVec 8
  errH : BitVec 32
  errV : BitVec 32
  errOff : BitVec 64
  errCode : BitVec 16
  resRgb : BitVec 24
  resOff : BitVec 64
  outW : BitVec 32
  outH : BitVec 32
  /-- `LUT` and `LUT_LEN`: a launch parameter, constant for the run. -/
  lut : Buffer
  /-- `MAP` and `MAP_LEN`: a launch parameter, constant for the run. -/
  map : Buffer
  /-- The block register file (R39). -/
  blk : Vector (BitVec 32) 64
  cgrid : Memory
  hgrid : Memory
  /-- The MODEL's own: what the host will do next, oldest first (log entry 1). -/
  pending : List HostEvent
  /-- The MODEL's own: what the host's reads were answered, newest first (log entry 3). -/
  answers : List BusValue
  /-- The MODEL's own: how many times free values have been drawn (log entry 13). -/
  freeCount : Nat
deriving DecidableEq, Repr

/-- Why the machine stops with a fault. The spec's four error kinds are not here: they are outcomes of a command
that goes on (60_exceptions.md R140). -/
inductive Fault where
  /-- Raised by `memRead` for a read of `n` bytes at `addr` that does not lie inside a buffer of `len` bytes:
  00_scope.md R10 gives such a call no meaning. SAFE: every caller checks the bounds first (20_memory.md R64), so no
  step reaches it. -/
  | outOfBounds (addr n len : Nat)
deriving DecidableEq, Repr

/-- Why the machine refuses a step. -/
inductive Refusal where
  /-- Raised by an arm of `exec` whose instruction has no meaning yet; no arm does. SAFE. -/
  | notModelled (mnemonic : String)
  /-- Raised by a host access to an index that names no register (10_state.md R40: "model: refuse"). SAFE. -/
  | noSuchRegister (index : Nat)
  /-- Raised by a host write of a value that has more bits than the register: 10_state.md R40 gives a write of
  exactly the register's width only. SAFE. -/
  | valueTooWide (index : Nat) (value : BusValue)
deriving DecidableEq, Repr

/-- The buffer of no bytes. -/
def Buffer.empty : Buffer := { len := 0#64, cells := [] }

/-- The machine right after a hardware reset (70_reset_and_hazards.md R142, 10_state.md R44), before a launch has
given it its input buffers. `BLK` is the model's choice (log entry 6), the empty buffers too (log entry 4). -/
def State.reset : State where
  blockSize := Config.blockSizeReset
  gridH := 0#16
  gridV := 0#16
  startH := 0#16
  startV := 0#16
  sizeH := 0#16
  sizeV := 0#16
  code := 0#16
  coordH := 0#16
  coordV := 0#16
  srcOff := 0#64
  srcLen := 0#16
  cmd := 0#32
  status := 0#32
  errKind := 0#8
  errH := 0#32
  errV := 0#32
  errOff := 0#64
  errCode := 0#16
  resRgb := 0#24
  resOff := 0#64
  outW := 0#32
  outH := 0#32
  lut := Buffer.empty
  map := Buffer.empty
  blk := Vector.replicate 64 0#32
  cgrid := []
  hgrid := []
  pending := []
  answers := []
  freeCount := 0

/-- A launch (70_reset_and_hazards.md R148, steps 1 and 2): the machine after a reset with its two input buffers
loaded and the host's accesses to come. -/
def State.launch (lut map : Buffer) (script : List HostEvent) : State :=
  { State.reset with lut := lut, map := map, pending := script }

end Sys2Proof.Machine
end

