-- ==== Sys2Proof/Machine/Flags.lean ====
section
/-! DEFINITION. The flags of `STATUS` (10_state.md R30): their places, and reading and writing one of them. -/

namespace Sys2Proof.Machine

/-- The four flags of `STATUS` (R30). -/
inductive Flag where
  | done
  | err
  | blkValid
  | outValid
deriving DecidableEq, Repr

/-- The bit of `STATUS` a flag stands in (R30). -/
def Flag.bit : Flag → Nat
  | .done => 0
  | .err => 1
  | .blkValid => 2
  | .outValid => 3

/-- One flag of a status word. -/
def getFlag (status : BitVec 32) (f : Flag) : Bool := status.getLsbD f.bit

/-- A status word with one flag set or cleared and every other bit kept. -/
def setFlag (status : BitVec 32) (f : Flag) (b : Bool) : BitVec 32 :=
  if b then status ||| (1#32 <<< f.bit) else status &&& ~~~(1#32 <<< f.bit)

/-- One flag of the machine's `STATUS`. -/
def State.flag (s : State) (f : Flag) : Bool := getFlag s.status f

/-- The machine with one flag of `STATUS` written. -/
def State.withFlag (f : Flag) (b : Bool) (s : State) : State := { s with status := setFlag s.status f b }

end Sys2Proof.Machine
end

