-- ==== Sys2Proof/Machine/Operands.lean ====
section
/-! DEFINITION. The data formats and operand assembly of 30_encoding.md: little-endian assembly, the RGB555 word, the
cell entry, colour channels, grey levels, the layouts of `RES_RGB` and of a `BLK` entry, and the effective addresses
of 20_memory.md R66. -/

namespace Sys2Proof.Machine

/-- Little-endian assembly: the byte at the lower offset is the less significant (00_scope.md R10, 20_memory.md
R51). -/
def leValue : List Byte → Nat
  | [] => 0
  | b :: bs => b.toNat + 256 * leValue bs

/-- An RGB888 triple (00_scope.md glossary). -/
structure Rgb where
  r : BitVec 8
  g : BitVec 8
  b : BitVec 8
deriving DecidableEq, Repr

/-- A decoded cell: its colour and its raw signed height byte (43_block_decoder.md R99, R104). -/
structure Pixel where
  rgb : Rgb
  height : BitVec 8
deriving DecidableEq, Repr

/-- The fields of an RGB555 word (30_encoding.md R68); bit 15 is not read. -/
def red5 (w : BitVec 16) : BitVec 5 := w.extractLsb' 10 5

/-- Green of an RGB555 word (R68). -/
def green5 (w : BitVec 16) : BitVec 5 := w.extractLsb' 5 5

/-- Blue of an RGB555 word (R68). -/
def blue5 (w : BitVec 16) : BitVec 5 := w.extractLsb' 0 5

/-- A 5-bit channel as an 8-bit one: shifted left by 3 (30_encoding.md R80). -/
def channel8 (c5 : BitVec 5) : BitVec 8 := c5.setWidth 8 <<< Config.chanShift

/-- `expand555` (41_color_lut.md R88). -/
def expand555 (w : BitVec 16) : Rgb :=
  { r := channel8 (red5 w), g := channel8 (green5 w), b := channel8 (blue5 w) }

/-- `cell_unpack` (43_block_decoder.md R100): the colour code in bits 15:0, the raw height byte in bits 23:16. -/
def cellUnpack (e : BitVec 24) : BitVec 16 × BitVec 8 := (e.extractLsb' 0 16, e.extractLsb' 16 8)

/-- `grey` (44_area_renderer.md R107): the signed height plus 128, exactly, then held in 8 bits. -/
def grey (height : BitVec 8) : BitVec 8 := BitVec.ofInt 8 (height.toInt + Config.heightBias)

/-- The layout of `RES_RGB` (10_state.md R35): R in 23:16, G in 15:8, B in 7:0. -/
def Rgb.word (c : Rgb) : BitVec 24 := c.r ++ c.g ++ c.b

/-- The layout of a `BLK` entry (30_encoding.md R75): height in 31:24, R in 23:16, G in 15:8, B in 7:0. -/
def Pixel.entry (p : Pixel) : BitVec 32 := p.height ++ p.rgb.r ++ p.rgb.g ++ p.rgb.b

/-- The offset in `LUT` of the look-up word of a code (20_memory.md R66). -/
def lutOffset (code : BitVec 16) : Nat := Config.lutEntryBytes * code.toNat

/-- The offset of cell (h, v) in a record (30_encoding.md R72). -/
def cellOff (h v : Nat) : Nat := Config.hdrBytes + Config.cellBytes * (Config.tileW * v + h)

/-- The offset of the first byte of colour pixel (x, y) in `CGRID` (20_memory.md R49, R66). -/
def colourOffset (x y w : Nat) : Nat := 3 * (y * w + x)

/-- The offset of height pixel (x, y) in `HGRID` (20_memory.md R50, R66). -/
def heightOffset (x y w : Nat) : Nat := y * w + x

end Sys2Proof.Machine
end

