-- ==== Sys2Proof/Machine/Ops.lean ====
section
/-! DEFINITION. The named operations over memory and state: the bytes of an output space, reads of an input buffer,
raising an error (60_exceptions.md R125), completing without one (R127), the invalidation of `BLK` and of the grids,
and the hardware reset (70_reset_and_hazards.md R141). -/

namespace Sys2Proof.Machine

/-- The byte an output space holds at an offset; none where it holds no specified value. -/
def Memory.read : Memory → Nat → Option Byte
  | [], _ => none
  | (x, v) :: m, a => if x = a then some v else Memory.read m a

/-- `MemWrite(S, a, 1, b)` (00_scope.md R10), keeping the offsets rising. -/
def Memory.write : Memory → Nat → Byte → Memory
  | [], a, b => [(a, b)]
  | (x, v) :: m, a, b =>
    if a < x then (a, b) :: (x, v) :: m
    else if a = x then (a, b) :: m
    else (x, v) :: Memory.write m a b

/-- The space whose bytes below `n` hold no specified value any more, every other byte kept. -/
def Memory.eraseBelow (m : Memory) (n : Nat) : Memory := m.filter fun c => n ≤ c.1

/-- The offsets rise strictly, from `lo` on. -/
def Memory.risingFrom : Nat → Memory → Bool
  | _, [] => true
  | lo, (a, _) :: m => decide (lo ≤ a) && Memory.risingFrom (a + 1) m

/-- The canonical form of an output space: the offsets rise strictly. (An unlisted offset holds no value, so no
entry can equal it.) -/
def Memory.wf (m : Memory) : Bool := Memory.risingFrom 0 m

/-- The byte of an input buffer at an offset inside its length (00_scope.md R7). -/
def Buffer.byteAt (b : Buffer) (a : Nat) : Byte := (Memory.read b.cells a).getD 0#8

/-- The canonical form of an input buffer: rising offsets, inside the length, and no listed byte 0. -/
def Buffer.wf (b : Buffer) : Bool :=
  Memory.wf b.cells && b.cells.all fun c => decide (c.1 < b.len.toNat) && decide (c.2 ≠ 0#8)

/-- `MemRead(S, addr, n)` of an input buffer (00_scope.md R10). A call outside the buffer has no meaning there, and
faults here. -/
def memRead (b : Buffer) (addr n : Nat) : Except Fault Nat :=
  if addr + n ≤ b.len.toNat then .ok (leValue ((List.range n).map fun k => b.byteAt (addr + k)))
  else .error (.outOfBounds addr n b.len.toNat)

/-- The bytes of one of the two output spaces. -/
def State.grid (s : State) : Grid → Memory
  | .colour => s.cgrid
  | .height => s.hgrid

/-- The byte at an offset of one of the four byte-addressed spaces (20_memory.md R46): none outside an input buffer
and where an output space holds no specified value. -/
def State.byteAt (s : State) : Space → Nat → Option Byte
  | .lut, a => if a < s.lut.len.toNat then some (s.lut.byteAt a) else none
  | .map, a => if a < s.map.len.toNat then some (s.map.byteAt a) else none
  | .grid g, a => Memory.read (s.grid g) a

/-- The error kinds (60_exceptions.md R117). -/
inductive ErrorKind where
  | outOfRange
  | malformedBlock
  | truncatedBuffer
  | illegal
deriving DecidableEq, Repr

/-- The code of an error kind in `ERR_KIND` (60_exceptions.md R117). -/
def ErrorKind.number : ErrorKind → BitVec 8
  | .outOfRange => 1#8
  | .malformedBlock => 2#8
  | .truncatedBuffer => 3#8
  | .illegal => 4#8

/-- What an error records (60_exceptions.md R123, R125); absent arguments are 0. -/
structure ErrorInfo where
  kind : ErrorKind
  h : Nat := 0
  v : Nat := 0
  off : Nat := 0
  code : BitVec 16 := 0#16
deriving DecidableEq, Repr

/-- `raise` (60_exceptions.md R125): the error registers and the flags `ERR` and `DONE`. -/
def raiseError (e : ErrorInfo) (s : State) : State :=
  { s with
    errKind := e.kind.number
    errH := BitVec.ofNat 32 e.h
    errV := BitVec.ofNat 32 e.v
    errOff := BitVec.ofNat 64 e.off
    errCode := e.code
    status := setFlag (setFlag s.status .err true) .done true }

/-- Completion without error (60_exceptions.md R127). There is no return operation to stand beside it (R128). -/
def completeOk (s : State) : State :=
  { s with
    errKind := 0#8
    errH := 0#32
    errV := 0#32
    errOff := 0#64
    errCode := 0#16
    status := setFlag (setFlag s.status .err false) .done true }

/-- A block register file whose entries hold unspecified values (10_state.md R39): the free values of one draw.
Irreducible, so that no proof unrolls its 64 entries by accident. -/
@[irreducible] def freeBlk (draw : Nat) : Vector (BitVec 32) 64 :=
  Vector.ofFn fun i : Fin 64 => Config.freeEntry draw i.val

/-- Every entry of `BLK` holds an unspecified value (10_state.md R39): free values, drawn afresh. -/
def scrambleBlk (s : State) : State := { s with blk := freeBlk s.freeCount, freeCount := s.freeCount + 1 }

/-- `BLK_VALID <- 0` and every entry of `BLK` unspecified (60_exceptions.md R125, 44_area_renderer.md R106). -/
def invalidateBlk (s : State) : State := scrambleBlk (s.withFlag .blkValid false)

/-- The bytes of the new grids hold no specified value (44_area_renderer.md R112): `CGRID` below `3 × w × ht`, `HGRID`
below `w × ht`. -/
def discardGrids (w ht : Nat) (s : State) : State :=
  { s with
    cgrid := Memory.eraseBelow s.cgrid (3 * w * ht)
    hgrid := Memory.eraseBelow s.hgrid (w * ht) }

/-- A hardware reset (70_reset_and_hazards.md R141): the registers of indices 0 to 23 at their reset values, `BLK`
and the grids unspecified, the launch parameters kept; the host's own fields are not the hardware's. -/
def hardwareReset (s : State) : State :=
  scrambleBlk
    { State.reset with
      lut := s.lut
      map := s.map
      pending := s.pending
      answers := s.answers
      freeCount := s.freeCount }

end Sys2Proof.Machine
end

