-- ==== Sys2Proof/Machine/ColorLut.lean ====
section
/-! DEFINITION. The colour look-up unit (41_color_lut.md): `lut_lookup` and `RESOLVE`. -/

namespace Sys2Proof.Machine

/-- `lut_lookup` (41_color_lut.md R89): none is its `Fail`. -/
def lutLookup (s : State) (code : BitVec 16) : Except Fault (Option Rgb) :=
  if s.lut.len.toNat < lutOffset code + Config.lutEntryBytes then .ok none
  else
    match memRead s.lut (lutOffset code) Config.lutEntryBytes with
    | .error f => .error f
    | .ok w => .ok (some (expand555 (BitVec.ofNat 16 w)))

/-- `RESOLVE` (41_color_lut.md R87). -/
def execResolve (s : State) : Host.Outcome State Fault Refusal :=
  match lutLookup s s.code with
  | .error f => .fault f
  | .ok none => .next (raiseError { kind := .outOfRange, off := lutOffset s.code, code := s.code } s)
  | .ok (some c) => .next (completeOk { s with resRgb := c.word })

end Sys2Proof.Machine
end

