-- ==== Sys2Proof/Machine/BlockDecoder.lean ====
section
/-! DEFINITION. The block decoder (43_block_decoder.md): `decode_block` and `DECODE`. -/

namespace Sys2Proof.Machine

/-- The cells (h, v) of a block in raster order, v outer and h inner (43_block_decoder.md R101): cell (h, v) is entry
`8 × v + h` of the list. -/
def raster : List (Nat × Nat) :=
  (List.range Config.tileH).flatMap fun v => (List.range Config.tileW).map fun h => (h, v)

/-- What decoding cells gives (43_block_decoder.md R99): the cells, or the first colour code that does not resolve. -/
inductive DecodeResult where
  | pixels (tile : List Pixel)
  | unresolved (code : BitVec 16)
deriving DecidableEq, Repr

/-- The loop of `decode_block` over the cells `todo` of the record at `base` (43_block_decoder.md R99). -/
def decodeCells (s : State) (base : Nat) : List (Nat × Nat) → Except Fault DecodeResult
  | [] => .ok (.pixels [])
  | (h, v) :: todo =>
    match memRead s.map (base + cellOff h v) Config.cellBytes with
    | .error f => .error f
    | .ok e =>
      let cell := cellUnpack (BitVec.ofNat 24 e)
      match lutLookup s cell.1 with
      | .error f => .error f
      | .ok none => .ok (.unresolved cell.1)
      | .ok (some rgb) =>
        match decodeCells s base todo with
        | .error f => .error f
        | .ok (.unresolved code) => .ok (.unresolved code)
        | .ok (.pixels tile) => .ok (.pixels ({ rgb := rgb, height := cell.2 } :: tile))

/-- `decode_block` (43_block_decoder.md R99): entry `8 × v + h` of the result is cell (h, v). -/
def decodeBlock (s : State) (base : Nat) : Except Fault DecodeResult := decodeCells s base raster

/-- `BLK[i] <- r[i]` for every i, and `BLK_VALID <- 1` (43_block_decoder.md R98). -/
def loadBlk (tile : List Pixel) (s : State) : State :=
  { s with
    blk := Vector.ofFn fun i : Fin 64 => (tile.map Pixel.entry).getD i.val 0#32
    status := setFlag s.status .blkValid true }

/-- `DECODE` (43_block_decoder.md R98). -/
def execDecode (s : State) : Host.Outcome State Fault Refusal :=
  if s.srcLen.toNat ≠ Config.blockBytes then
    .next (raiseError { kind := .malformedBlock, off := s.srcOff.toNat } (invalidateBlk s))
  else if s.map.len.toNat < s.srcOff.toNat + Config.blockBytes then
    .next (raiseError { kind := .truncatedBuffer, off := s.srcOff.toNat } (invalidateBlk s))
  else
    match decodeBlock s s.srcOff.toNat with
    | .error f => .fault f
    | .ok (.unresolved code) =>
      .next (raiseError { kind := .malformedBlock, off := s.srcOff.toNat, code := code } (invalidateBlk s))
    | .ok (.pixels tile) => .next (completeOk (loadBlk tile s))

end Sys2Proof.Machine
end

