-- ==== Sys2Proof/Machine/BlockIndex.lean ====
section
/-! DEFINITION. The block address calculator (42_block_index.md): `block_offset` and `OFFSET`. -/

namespace Sys2Proof.Machine

/-- `block_offset` (42_block_index.md R94), exact; none is its `Fail`. H varies slowest (R97) and is not bounded
(R96). -/
def blockOffset (h v bs gv : Nat) : Option Nat :=
  if gv ≤ v then none else some (bs * (h * gv + v))

/-- `OFFSET` (42_block_index.md R93). -/
def execOffset (s : State) : Host.Outcome State Fault Refusal :=
  match blockOffset s.coordH.toNat s.coordV.toNat s.blockSize.toNat s.gridV.toNat with
  | none => .next (raiseError { kind := .outOfRange, h := s.coordH.toNat, v := s.coordV.toNat } s)
  | some o => .next (completeOk { s with resOff := BitVec.ofNat 64 o })

end Sys2Proof.Machine
end

