-- ==== Sys2Proof/Machine/AreaRenderer.lean ====
section
/-! DEFINITION. The tile-grid compositor (44_area_renderer.md): `place_tile`, the loop over the blocks of an area, and
`RENDER`. -/

namespace Sys2Proof.Machine

/-- The registers a `RENDER` samples (44_area_renderer.md R106), as exact numbers. -/
structure Area where
  sh : Nat
  sv : Nat
  w : Nat
  ht : Nat
  bs : Nat
  gv : Nat
deriving DecidableEq, Repr

/-- The area the registers name (44_area_renderer.md R106). -/
def State.area (s : State) : Area :=
  { sh := s.startH.toNat, sv := s.startV.toNat, w := s.sizeH.toNat, ht := s.sizeV.toNat,
    bs := s.blockSize.toNat, gv := s.gridV.toNat }

/-- Width of the grids in pixels (44_area_renderer.md R108). -/
def Area.pixelW (p : Area) : Nat := Config.tileW * p.w

/-- Height of the grids in pixels (44_area_renderer.md R108). -/
def Area.pixelH (p : Area) : Nat := Config.tileH * p.ht

/-- The blocks (rh, rv) of an area in traversal order, rv outer and rh inner (44_area_renderer.md R109). -/
def Area.blocks (p : Area) : List (Nat × Nat) :=
  (List.range p.ht).flatMap fun j => (List.range p.w).map fun i => (p.sh + i, p.sv + j)

/-- The two output spaces. -/
structure Grids where
  c : Memory
  h : Memory
deriving DecidableEq, Repr

/-- One cell's four writes at pixel (x, y) of grids of width `w` (44_area_renderer.md R111). -/
def placePixel (px : Pixel) (x y w : Nat) (g : Grids) : Grids :=
  let o := colourOffset x y w
  { c := Memory.write (Memory.write (Memory.write g.c o px.rgb.r) (o + 1) px.rgb.g) (o + 2) px.rgb.b
    h := Memory.write g.h (heightOffset x y w) (grey px.height) }

/-- The loop of `place_tile` over cells with their pixels (44_area_renderer.md R111). -/
def placeCells (x0 y0 w : Nat) : List ((Nat × Nat) × Pixel) → Grids → Grids
  | [], g => g
  | ((h, v), px) :: todo, g => placeCells x0 y0 w todo (placePixel px (x0 + h) (y0 + v) w g)

/-- `place_tile` (44_area_renderer.md R111): cell (h, v) of the tile at pixel (x0 + h, y0 + v). -/
def placeTile (tile : List Pixel) (x0 y0 w : Nat) (g : Grids) : Grids := placeCells x0 y0 w (raster.zip tile) g

/-- How the loop of a `RENDER` ends (44_area_renderer.md R106). -/
inductive RenderEnd where
  | done (g : Grids)
  | failed (e : ErrorInfo)
deriving DecidableEq, Repr

/-- The loop of `RENDER` over the blocks `todo`, with the checks of each in the order of 44_area_renderer.md R110. -/
def renderBlocks (s : State) (p : Area) : List (Nat × Nat) → Grids → Except Fault RenderEnd
  | [], g => .ok (.done g)
  | (rh, rv) :: todo, g =>
    match blockOffset rh rv p.bs p.gv with
    | none => .ok (.failed { kind := .outOfRange, h := rh, v := rv })
    | some o =>
      if s.map.len.toNat < o + Config.blockBytes then
        .ok (.failed { kind := .truncatedBuffer, h := rh, v := rv, off := o })
      else
        match decodeBlock s o with
        | .error f => .error f
        | .ok (.unresolved code) =>
          .ok (.failed { kind := .malformedBlock, h := rh, v := rv, off := o, code := code })
        | .ok (.pixels tile) =>
          renderBlocks s p todo
            (placeTile tile (Config.tileW * (rh - p.sh)) (Config.tileH * (rv - p.sv)) p.pixelW g)

/-- What a `RENDER` that passes its `Illegal` checks writes before its loop (44_area_renderer.md R106). -/
def startRender (p : Area) (s : State) : State :=
  invalidateBlk
    { s with
      outW := BitVec.ofNat 32 p.pixelW
      outH := BitVec.ofNat 32 p.pixelH
      status := setFlag s.status .outValid false }

/-- What a `RENDER` whose loop is done writes (44_area_renderer.md R106). -/
def finishRender (g : Grids) (s : State) : State :=
  completeOk { s with cgrid := g.c, hgrid := g.h, status := setFlag s.status .outValid true }

/-- The preconditions of `RENDER` fail (44_area_renderer.md R116). -/
def Area.illegal (p : Area) : Bool := p.w = 0 || p.ht = 0 || p.bs ≠ Config.blockBytes

/-- `RENDER` (44_area_renderer.md R106). -/
def execRender (s : State) : Host.Outcome State Fault Refusal :=
  let p := s.area
  if p.illegal then .next (raiseError { kind := .illegal } s)
  else
    match renderBlocks s p p.blocks { c := s.cgrid, h := s.hgrid } with
    | .error f => .fault f
    | .ok (.failed e) => .next (raiseError e (discardGrids p.pixelW p.pixelH (startRender p s)))
    | .ok (.done g) => .next (finishRender g (startRender p s))

end Sys2Proof.Machine
end

