-- ==== Sys2Proof/Machine/Dispatch.lean ====
section
/-! DEFINITION. One arm per operation of the opcode table. -/

namespace Sys2Proof.Machine

def exec (i : Instr) (s : State) : Host.Outcome State Fault Refusal :=
  match i with
  | .resolve => Sys2Proof.Machine.execResolve s
  | .offset => Sys2Proof.Machine.execOffset s
  | .decode => Sys2Proof.Machine.execDecode s
  | .render => Sys2Proof.Machine.execRender s

end Sys2Proof.Machine
end

