-- ==== Sys2Proof/Machine/RegisterMap.lean ====
section
/-! DEFINITION. The register map of 10_state.md R14: index, width and access of every register, and the register an
index names. -/

namespace Sys2Proof.Machine

/-- The registers of indices 0 to 25, in the order of their index (10_state.md R14). -/
def namedRegs : List Reg :=
  [.blockSize, .gridH, .gridV, .tileDim, .startH, .startV, .sizeH, .sizeV, .code, .coordH, .coordV, .srcOff, .srcLen,
    .cmd, .status, .errKind, .errH, .errV, .errOff, .errCode, .resRgb, .resOff, .outW, .outH, .lutLen, .mapLen]

/-- The register an index names; none for 26 to 63 and from 128 on (10_state.md R14). -/
def regOfIndex (index : Nat) : Option Reg :=
  if h : 64 ≤ index ∧ index < 128 then some (.blk ⟨index - 64, by omega⟩) else namedRegs[index]?

/-- The index of a register (10_state.md R14). -/
def regIndex : Reg → Nat
  | .blockSize => 0
  | .gridH => 1
  | .gridV => 2
  | .tileDim => 3
  | .startH => 4
  | .startV => 5
  | .sizeH => 6
  | .sizeV => 7
  | .code => 8
  | .coordH => 9
  | .coordV => 10
  | .srcOff => 11
  | .srcLen => 12
  | .cmd => 13
  | .status => 14
  | .errKind => 15
  | .errH => 16
  | .errV => 17
  | .errOff => 18
  | .errCode => 19
  | .resRgb => 20
  | .resOff => 21
  | .outW => 22
  | .outH => 23
  | .lutLen => 24
  | .mapLen => 25
  | .blk i => 64 + i.val

/-- The width in bits of a register (10_state.md R14). -/
def regWidth : Reg → Nat
  | .blockSize | .gridH | .gridV | .tileDim => 16
  | .startH | .startV | .sizeH | .sizeV => 16
  | .code | .coordH | .coordV => 16
  | .srcOff => 64
  | .srcLen => 16
  | .cmd | .status => 32
  | .errKind => 8
  | .errH | .errV => 32
  | .errOff => 64
  | .errCode => 16
  | .resRgb => 24
  | .resOff => 64
  | .outW | .outH => 32
  | .lutLen | .mapLen => 64
  | .blk _ => 32

/-- Who may write a register (10_state.md R14). -/
def regAccess : Reg → Access
  | .blockSize | .gridH | .gridV => .readWrite
  | .tileDim => .readOnly
  | .startH | .startV | .sizeH | .sizeV => .readWrite
  | .code | .coordH | .coordV | .srcOff | .srcLen => .readWrite
  | .cmd => .readWrite
  | .status | .errKind | .errH | .errV | .errOff | .errCode => .readOnly
  | .resRgb | .resOff | .outW | .outH | .lutLen | .mapLen => .readOnly
  | .blk _ => .readOnly

/-- A value has no bit beyond the register's width (10_state.md R40: "exactly the register's width"). -/
def valueFits (r : Reg) (value : BusValue) : Bool := decide (value.toNat < 2 ^ regWidth r)

end Sys2Proof.Machine
end

