-- ==== Sys2Proof/Machine/Registers.lean ====
section
/-! DEFINITION. Reading and writing a register by name (10_state.md R40). -/

namespace Sys2Proof.Machine

/-- The value a register holds, zero-extended to the host's side. `TILE_DIM` is hardwired (10_state.md R19),
`LUT_LEN` and `MAP_LEN` are the lengths of the input buffers (R38). -/
def readReg (s : State) : Reg → BusValue
  | .blockSize => s.blockSize.setWidth 64
  | .gridH => s.gridH.setWidth 64
  | .gridV => s.gridV.setWidth 64
  | .tileDim => Config.tileDim.setWidth 64
  | .startH => s.startH.setWidth 64
  | .startV => s.startV.setWidth 64
  | .sizeH => s.sizeH.setWidth 64
  | .sizeV => s.sizeV.setWidth 64
  | .code => s.code.setWidth 64
  | .coordH => s.coordH.setWidth 64
  | .coordV => s.coordV.setWidth 64
  | .srcOff => s.srcOff
  | .srcLen => s.srcLen.setWidth 64
  | .cmd => s.cmd.setWidth 64
  | .status => s.status.setWidth 64
  | .errKind => s.errKind.setWidth 64
  | .errH => s.errH.setWidth 64
  | .errV => s.errV.setWidth 64
  | .errOff => s.errOff
  | .errCode => s.errCode.setWidth 64
  | .resRgb => s.resRgb.setWidth 64
  | .resOff => s.resOff
  | .outW => s.outW.setWidth 64
  | .outH => s.outH.setWidth 64
  | .lutLen => s.lut.len
  | .mapLen => s.map.len
  | .blk i => s.blk[i].setWidth 64

/-- The store of a host write to a register: an RW register takes the value, an RO register is left alone (10_state.md
R40). What a write of `CMD` does beyond the store is `runCommand`. -/
def storeReg (r : Reg) (value : BusValue) (s : State) : State :=
  match r with
  | .blockSize => { s with blockSize := value.setWidth 16 }
  | .gridH => { s with gridH := value.setWidth 16 }
  | .gridV => { s with gridV := value.setWidth 16 }
  | .startH => { s with startH := value.setWidth 16 }
  | .startV => { s with startV := value.setWidth 16 }
  | .sizeH => { s with sizeH := value.setWidth 16 }
  | .sizeV => { s with sizeV := value.setWidth 16 }
  | .code => { s with code := value.setWidth 16 }
  | .coordH => { s with coordH := value.setWidth 16 }
  | .coordV => { s with coordV := value.setWidth 16 }
  | .srcOff => { s with srcOff := value }
  | .srcLen => { s with srcLen := value.setWidth 16 }
  | .cmd => { s with cmd := value.setWidth 32 }
  | .tileDim | .status | .errKind | .errH | .errV | .errOff | .errCode | .resRgb | .resOff | .outW | .outH => s
  | .lutLen | .mapLen | .blk _ => s

/-- The host's read of a register is answered (10_state.md R40). -/
def answer (value : BusValue) (s : State) : State := { s with answers := value :: s.answers }

end Sys2Proof.Machine
end

