-- ==== Sys2Proof/Machine/HostAccess.lean ====
section
/-! DEFINITION. Serving one host event: register reads and writes (10_state.md R40), the `CMD` write that runs a
command (R29), reads of the output grids (20_memory.md R46, 70_reset_and_hazards.md R149) and the hardware reset
(R141). -/

namespace Sys2Proof.Machine

/-- The command of a word (10_state.md R29, 30_encoding.md R77, R83): the operation it selects, or, for a reserved
word, `Illegal` and nothing else. -/
def runCommand (word : BitVec 32) (s : State) : Host.Outcome State Fault Refusal :=
  match decodeCommand word with
  | .instr i => exec i s
  | .reserved _ => .next (raiseError { kind := .illegal } s)

/-- One more free value has been drawn. -/
def drawFree (s : State) : State := { s with freeCount := s.freeCount + 1 }

/-- The answer to a read of a register that is there: its value (10_state.md R40). An entry of `BLK` while `BLK_VALID`
is 0 holds an unspecified value (R39, 70_reset_and_hazards.md R149): a free value is answered. -/
def answerReg (r : Reg) (s : State) : State :=
  match r with
  | .blk i =>
    if s.flag .blkValid then answer (readReg s (.blk i)) s
    else answer ((Config.freeEntry s.freeCount i.val).setWidth 64) (drawFree s)
  | r => answer (readReg s r) s

/-- `RegRead(i)` (10_state.md R40). -/
def regRead (index : Nat) (s : State) : Host.Outcome State Fault Refusal :=
  match regOfIndex index with
  | none => .refused (.noSuchRegister index)
  | some r => .next (answerReg r s)

/-- `RegWrite(i, v)` (10_state.md R40): the store, and for `CMD` the command (R29). -/
def regWrite (index : Nat) (value : BusValue) (s : State) : Host.Outcome State Fault Refusal :=
  match regOfIndex index with
  | none => .refused (.noSuchRegister index)
  | some r =>
    if valueFits r value then
      match r with
      | .cmd => runCommand (value.setWidth 32) (storeReg .cmd value s)
      | r => .next (storeReg r value s)
    else .refused (.valueTooWide index value)

/-- A host read of one byte of an output grid: the byte, while `OUT_VALID` is 1 and the byte holds a specified value;
else a free value (70_reset_and_hazards.md R149, 93_implementation_defined.md U2, U3). DESIGN CHOICE (log entry 10): the
free value is drawn afresh at each read, also while `OUT_VALID` is 1 and the byte lies beyond the new grids, where
20_memory.md R65 has it keep whatever it held: two reads of it may differ in the model. Safe: one kept byte, read
alike each time, is among the answers allowed. -/
def gridRead (g : Grid) (a : Nat) (s : State) : Host.Outcome State Fault Refusal :=
  match s.flag .outValid, Memory.read (s.grid g) a with
  | true, some b => .next (answer (b.setWidth 64) s)
  | _, _ => .next (answer ((Config.freeByte s.freeCount).setWidth 64) (drawFree s))

/-- One host event is served (10_state.md R40, 20_memory.md R58). -/
def serve (e : HostEvent) (s : State) : Host.Outcome State Fault Refusal :=
  match e with
  | .regRead index => regRead index s
  | .regWrite index value => regWrite index value s
  | .gridRead g a => gridRead g a s
  | .hardwareReset => .next (hardwareReset s)

/-- The next host event, taken from those pending, is served; with none pending the hardware is idle and holds its
state (60_exceptions.md R138, 70_reset_and_hazards.md R143). -/
def serveNext (s : State) : Host.Outcome State Fault Refusal :=
  match s.pending with
  | [] => .next s
  | e :: rest => serve e { s with pending := rest }

/-- The host writes the command word of a table row to `CMD` before anything else it has pending. -/
def queueTableWord (nbits w : Nat) (s : State) : State :=
  { s with pending := .regWrite (regIndex .cmd) (BitVec.ofNat 64 (w % 2 ^ nbits)) :: s.pending }

end Sys2Proof.Machine
end

