-- ==== Sys2Proof/Machine/Step.lean ====
section
/-! DEFINITION. One step of the machine, and the placing of a command where the next step takes it. -/

namespace Sys2Proof.Machine

/-- One step: the next host event, or, with none pending, idleness (10_state.md R15, R29, R40). -/
def step (s : State) : Host.Outcome State Fault Refusal := serveNext s

/-- `s` with the write of a command word as the host's next access (log entry 2). -/
def State.withFetchWord (s : State) (nbits w : Nat) : State := queueTableWord nbits w s

end Sys2Proof.Machine
end

