-- ==== Sys2Proof/Machine/Script.lean ====
section
/-! DEFINITION. The host script notation of 30_encoding.md section 6 (R85, R86): its lines, and the host accesses each
stands for. The step function does not use it; a script is what a host places in the pending events. -/

namespace Sys2Proof.Machine

/-- A line of a host script: the lines of R85 first, then the pseudo-operations of R86. -/
inductive ScriptLine where
  /-- `WR <reg>, <v>`. -/
  | wr (r : Reg) (v : BusValue)
  /-- `RD <reg>`. -/
  | rd (r : Reg)
  /-- `RESOLVE`, `OFFSET`, `DECODE` or `RENDER` without arguments. -/
  | command (i : Instr)
  /-- `; text`. -/
  | comment
  /-- `RESOLVE <code>`. -/
  | resolveCode (code : BitVec 16)
  /-- `OFFSET <H>, <V>`. -/
  | offsetOf (h v : BitVec 16)
  /-- `DECODE <off>, <len>`. -/
  | decodeAt (off : BitVec 64) (len : BitVec 16)
  /-- `RENDER <H>, <V>, <w>, <ht>`. -/
  | renderArea (h v w ht : BitVec 16)
  /-- `GRID <gh>, <gv>`. -/
  | grid (gh gv : BitVec 16)
deriving DecidableEq, Repr

/-- `RegWrite(index(<reg>), <v>)` (R85). -/
def writeEvent (r : Reg) (v : BusValue) : HostEvent := .regWrite (regIndex r) v

/-- `RegWrite(13, <word>)` with the word of an operation (R85). -/
def commandEvent (i : Instr) : HostEvent := writeEvent .cmd ((encode i).setWidth 64)

/-- The host accesses of a line (R85, R86). -/
def scriptLineEvents : ScriptLine → List HostEvent
  | .wr r v => [writeEvent r v]
  | .rd r => [.regRead (regIndex r)]
  | .command i => [commandEvent i]
  | .comment => []
  | .resolveCode code => [writeEvent .code (code.setWidth 64), commandEvent .resolve]
  | .offsetOf h v => [writeEvent .coordH (h.setWidth 64), writeEvent .coordV (v.setWidth 64), commandEvent .offset]
  | .decodeAt off len => [writeEvent .srcOff off, writeEvent .srcLen (len.setWidth 64), commandEvent .decode]
  | .renderArea h v w ht =>
    [writeEvent .startH (h.setWidth 64), writeEvent .startV (v.setWidth 64), writeEvent .sizeH (w.setWidth 64),
      writeEvent .sizeV (ht.setWidth 64), commandEvent .render]
  | .grid gh gv => [writeEvent .gridH (gh.setWidth 64), writeEvent .gridV (gv.setWidth 64)]

/-- The host accesses of a script, top to bottom (R85). -/
def scriptEvents (lines : List ScriptLine) : List HostEvent := lines.flatMap scriptLineEvents

end Sys2Proof.Machine
end

