-- ==== Sys2Proof/WellFormed.lean ====
section
/-! DEFINITION. The checks on what the host sends: a command word's fields (30_encoding.md R76, R83), the register an
access names and the width of a written value (10_state.md R40). -/

namespace Sys2Proof

/-- `ZERO` is 0 (30_encoding.md R76). -/
def RawCommand.zeroOk (c : RawCommand) : Bool := c.zero = 0#24

/-- `OP` is 0x01 to 0x04 (30_encoding.md R77, R83). -/
def RawCommand.opOk (c : RawCommand) : Bool := decide (1 ≤ c.op.toNat) && decide (c.op.toNat ≤ 4)

/-- A command word that selects an operation (30_encoding.md R83). -/
def RawCommand.wf (c : RawCommand) : Bool := c.zeroOk && c.opOk

/-- An instruction is well-formed when its command word is; no operand stands in the word (30_encoding.md R76). -/
def Instr.wf (i : Instr) : Bool := (RawCommand.ofWord (encode i)).wf

/-- The index of a register access names a register (10_state.md R14). -/
def HostEvent.indexNamed : HostEvent → Bool
  | .regRead index => (Machine.regOfIndex index).isSome
  | .regWrite index _ => (Machine.regOfIndex index).isSome
  | .gridRead _ _ => true
  | .hardwareReset => true

/-- The value of a register write fits the register (10_state.md R40). -/
def HostEvent.valueOk : HostEvent → Bool
  | .regRead _ => true
  | .regWrite index value =>
    match Machine.regOfIndex index with
    | some r => Machine.valueFits r value
    | none => true
  | .gridRead _ _ => true
  | .hardwareReset => true

/-- A host event the spec gives a meaning to (10_state.md R40). -/
def HostEvent.wf (e : HostEvent) : Bool := e.indexNamed && e.valueOk

end Sys2Proof
end

