-- ==== Sys2Proof/Safety.lean ====
section
/-! DEFINITION. The terms in which claims about the machine are stated: what the input buffers say of a colour code,
of a cell and of a block, when an area renders without error, the boot requirements (70_reset_and_hazards.md R146),
and the invariant of the machine. Nothing here is used by the step function. -/

namespace Sys2Proof.Machine

/-- A colour code lies inside the look-up buffer (41_color_lut.md R89). -/
abbrev CodeResolves (s : State) (code : BitVec 16) : Prop := 2 * code.toNat + 2 ≤ s.lut.len.toNat

/-- The look-up word of a code: its high byte above its low byte (30_encoding.md R69). -/
def lutWord (s : State) (code : BitVec 16) : BitVec 16 :=
  s.lut.byteAt (2 * code.toNat + 1) ++ s.lut.byteAt (2 * code.toNat)

/-- The RGB888 triple of an RGB555 word, each channel its five bits above three zero bits (30_encoding.md R68,
R80). -/
def rgbOfWord (w : BitVec 16) : Rgb :=
  { r := w.extractLsb' 10 5 ++ 0#3, g := w.extractLsb' 5 5 ++ 0#3, b := w.extractLsb' 0 5 ++ 0#3 }

/-- The colour of a code that resolves (41_color_lut.md R90). -/
def colourOf (s : State) (code : BitVec 16) : Rgb := rgbOfWord (lutWord s code)

/-- The colour code of cell entry `i` of the record at `base` (30_encoding.md R71, R78). -/
def cellCode (s : State) (base i : Nat) : BitVec 16 :=
  s.map.byteAt (base + 4 + 3 * i + 1) ++ s.map.byteAt (base + 4 + 3 * i)

/-- The height byte of cell entry `i` of the record at `base` (30_encoding.md R71, R79). -/
def cellHeight (s : State) (base i : Nat) : BitVec 8 := s.map.byteAt (base + 4 + 3 * i + 2)

/-- Cell entry `i` of the record at `base`, decoded (43_block_decoder.md R99). -/
def cellPixel (s : State) (base i : Nat) : Pixel :=
  { rgb := colourOf s (cellCode s base i), height := cellHeight s base i }

/-- The colour codes of the cells below `n` of the record at `base` resolve. -/
abbrev CellsResolve (s : State) (base n : Nat) : Prop := ∀ i, i < n → CodeResolves s (cellCode s base i)

/-- The offset of block (rh, rv) in `MAP` (42_block_index.md R94 with 44_area_renderer.md R116). -/
def recordOffset (s : State) (rh rv : Nat) : Nat := 196 * (rh * s.gridV.toNat + rv)

/-- Block (rh, rv) passes the three checks of 44_area_renderer.md R110. -/
abbrev BlockPasses (s : State) (rh rv : Nat) : Prop :=
  rv < s.gridV.toNat ∧ recordOffset s rh rv + 196 ≤ s.map.len.toNat ∧ CellsResolve s (recordOffset s rh rv) 64

/-- The preconditions of `RENDER` (44_area_renderer.md R116). -/
abbrev AreaLegal (s : State) : Prop := s.sizeH ≠ 0#16 ∧ s.sizeV ≠ 0#16 ∧ s.blockSize = 196#16

/-- Every block of the area passes its checks. -/
abbrev AreaPasses (s : State) : Prop :=
  ∀ j, j < s.sizeV.toNat → ∀ i, i < s.sizeH.toNat → BlockPasses s (s.startH.toNat + i) (s.startV.toNat + j)

/-- Every block of the area that is visited before the block in column `i`, row `j` of the area passes its checks: the
rows above, and the columns to the left in row `j` (44_area_renderer.md R109). -/
abbrev PassesBefore (s : State) (i j : Nat) : Prop :=
  (∀ j', j' < j → ∀ i', i' < s.sizeH.toNat → BlockPasses s (s.startH.toNat + i') (s.startV.toNat + j')) ∧
    ∀ i', i' < i → BlockPasses s (s.startH.toNat + i') (s.startV.toNat + j)

/-- The boot requirements (a) and (b) of 70_reset_and_hazards.md R146. -/
abbrev BootReady (s : State) : Prop :=
  131072 ≤ s.lut.len.toNat ∧ 196 * s.gridH.toNat * s.gridV.toNat ≤ s.map.len.toNat

/-- The area lies inside the grid (60_exceptions.md R139). -/
abbrev AreaInsideGrid (s : State) : Prop :=
  s.startH.toNat + s.sizeH.toNat ≤ s.gridH.toNat ∧ s.startV.toNat + s.sizeV.toNat ≤ s.gridV.toNat

/-- The status word after a completion without error: `DONE` set, `ERR` cleared, the other flags kept (60_exceptions.md
R127). -/
def statusOk (status : BitVec 32) : BitVec 32 := (status ||| 1#32) &&& ~~~2#32

/-- The status word after an error: `DONE` and `ERR` set, the other flags kept (60_exceptions.md R125). -/
def statusErr (status : BitVec 32) : BitVec 32 := status ||| 3#32

/-- `t` is `s` after a `RENDER` that failed at block (rh, rv): the dimensions of the new grids, the flags and the error
registers written; `BLK` and the bytes of the new grids unspecified; everything else kept, the bytes of the output
spaces beyond the new grids too (44_area_renderer.md R106, R112, 60_exceptions.md R123, R125). -/
def RenderFailedWith (s t : State) (kind : BitVec 8) (rh rv off : Nat) (code : BitVec 16) : Prop :=
  t = { s with
        outW := BitVec.ofNat 32 (8 * s.sizeH.toNat)
        outH := BitVec.ofNat 32 (8 * s.sizeV.toNat)
        status := (s.status ||| 3#32) &&& ~~~12#32
        errKind := kind
        errH := BitVec.ofNat 32 rh
        errV := BitVec.ofNat 32 rv
        errOff := BitVec.ofNat 64 off
        errCode := code
        blk := t.blk
        freeCount := t.freeCount
        cgrid := t.cgrid
        hgrid := t.hgrid } ∧
    (∀ a, 3 * (8 * s.sizeH.toNat * (8 * s.sizeV.toNat)) ≤ a → t.byteAt (.grid .colour) a = s.byteAt (.grid .colour) a) ∧
    ∀ a, 8 * s.sizeH.toNat * (8 * s.sizeV.toNat) ≤ a → t.byteAt (.grid .height) a = s.byteAt (.grid .height) a

/-- The invariant of the machine: what the spec says of the registers and of the grids after any run of host
events. -/
structure Inv (s : State) : Prop where
  /-- Bits 31:4 of `STATUS` read as zero (10_state.md R30). -/
  statusHigh : s.status.toNat < 16
  /-- `ERR == 1` exactly when `ERR_KIND != 0` (10_state.md R30). -/
  errFlag : s.flag .err = true ↔ s.errKind ≠ 0#8
  /-- `ERR_KIND` is 0 to 4 (10_state.md R31). -/
  errKind : s.errKind.toNat ≤ 4
  /-- Without an error, and after `Illegal`, the other error registers are 0 (60_exceptions.md R123, R127). -/
  errClear : s.errKind = 0#8 ∨ s.errKind = 4#8 → s.errH = 0#32 ∧ s.errV = 0#32 ∧ s.errOff = 0#64 ∧ s.errCode = 0#16
  /-- No flag is set before a command has completed (10_state.md R30). -/
  notDone : s.flag .done = false → s.status = 0#32
  /-- The low three bits of every channel of `RES_RGB` are 0 (30_encoding.md R80). -/
  resRgb : s.resRgb &&& 0x070707#24 = 0#24
  /-- `RES_OFF` is below 2^48 (10_state.md R36). -/
  resOff : s.resOff.toNat < 2 ^ 48
  /-- The dimensions are multiples of 8, at most 524280 (10_state.md R37). -/
  outDims : s.outW.toNat % 8 = 0 ∧ s.outW.toNat ≤ 524280 ∧ s.outH.toNat % 8 = 0 ∧ s.outH.toNat ≤ 524280
  /-- While `OUT_VALID` is 1 the grids are not empty and every byte of them holds a specified value (44_area_renderer.md
  R113). -/
  complete : s.flag .outValid = true →
    0 < s.outW.toNat ∧ 0 < s.outH.toNat ∧
      (∀ a, a < 3 * (s.outW.toNat * s.outH.toNat) → (s.byteAt (.grid .colour) a).isSome = true) ∧
      ∀ a, a < s.outW.toNat * s.outH.toNat → (s.byteAt (.grid .height) a).isSome = true
  /-- The two output spaces are in canonical form. -/
  colourWf : Memory.wf s.cgrid = true
  /-- The two output spaces are in canonical form. -/
  heightWf : Memory.wf s.hgrid = true

end Sys2Proof.Machine
end

