-- ==== Sys2Proof/Certificates/Slice0/Obligations.lean ====
section
/-! DEFINITION. The statements for the provers. Each docstring names the rule of spec/ it formalises, and what of it is
the model's own. -/

open Sys2Proof Sys2Proof.Machine

/-! Encoding -/

/-- 30_encoding.md R77 and the reserved words of 95_test_vectors.md section 2.6, bit patterns written out. -/
def Obligations.TableWordsDecode : Prop :=
  decodeCommand 0b00000000000000000000000000000001#32 = .instr .resolve ∧
  decodeCommand 0b00000000000000000000000000000010#32 = .instr .offset ∧
  decodeCommand 0b00000000000000000000000000000011#32 = .instr .decode ∧
  decodeCommand 0b00000000000000000000000000000100#32 = .instr .render ∧
  decodeCommand 0x00000000#32 = .reserved (.opReserved 0x00#8) ∧
  decodeCommand 0x00000005#32 = .reserved (.opReserved 0x05#8) ∧
  decodeCommand 0x000000FF#32 = .reserved (.opReserved 0xFF#8) ∧
  decodeCommand 0x00000101#32 = .reserved (.zeroFieldNotZero 0x000001#24) ∧
  decodeCommand 0x80000004#32 = .reserved (.zeroFieldNotZero 0x800000#24)

/-- The decoder and the encoder agree on every command word, both ways: a word selects an operation exactly when it is
that operation's word (30_encoding.md R77: `(word & 0xFFFFFFFF) == match`). -/
def Obligations.DecodeInvertsEncode : Prop :=
  ∀ (w : BitVec 32) (i : Instr), decodeCommand w = .instr i ↔ w = encode i

/-- 30_encoding.md R83. A word with `ZERO` not 0, or with `OP` 0x00 or 0x05 to 0xFF, selects no operation; its write to
`CMD` raises `Illegal` and does nothing else but store the word; every word is one of the four or reserved. -/
def Obligations.ReservedWordRaisesIllegal : Prop :=
  (∀ (s : State) (w : BitVec 32) (rest : List HostEvent),
    s.pending = .regWrite 13 (w.setWidth 64) :: rest →
    (w.extractLsb' 8 24 ≠ 0#24 ∨ w.extractLsb' 0 8 = 0#8 ∨ 5 ≤ (w.extractLsb' 0 8).toNat) →
    (∀ i, decodeCommand w ≠ .instr i) ∧
    step s = .next { s with
      pending := rest, cmd := w, errKind := 4#8, errH := 0#32, errV := 0#32, errOff := 0#64, errCode := 0#16,
      status := statusErr s.status }) ∧
  ∀ w : BitVec 32,
    (w = 0x00000001#32 ∨ w = 0x00000002#32 ∨ w = 0x00000003#32 ∨ w = 0x00000004#32) ∨
    ∃ why, decodeCommand w = .reserved why

/-! The host's accesses -/

/-- A step whose next host event is a `CMD` write of a word that decodes to an operation is that operation on the state
in which the event is taken and the word stored (10_state.md R29); the operation is well-formed. -/
def Obligations.StepRunsDecodedCommand : Prop :=
  ∀ (s : State) (w : BitVec 32) (rest : List HostEvent) (i : Instr),
    s.pending = .regWrite 13 (w.setWidth 64) :: rest → decodeCommand w = .instr i →
    i.wf = true ∧ step s = exec i { s with pending := rest, cmd := w }

/-- The MODEL's placing of a command (log entry 2): the very next step runs it, on the state with its word in `CMD`. -/
def Obligations.FetchWordRunsNext : Prop :=
  ∀ (s : State) (i : Instr), step (s.withFetchWord 32 (encode i).toNat) = exec i { s with cmd := encode i }

/-- `CMD` reads back the last word written (10_state.md R29): it is 0 after reset, and after the step of a hardware reset;
the step of a write of a word to index 13 leaves that word in it, whatever the word's command does; no other host event
and no operation changes it; and the read of index 13 answers it and starts nothing. -/
def Obligations.CmdKeepsLastWord : Prop :=
  State.reset.cmd = 0#32 ∧
  (∀ (s : State) (rest : List HostEvent), s.pending = .hardwareReset :: rest →
    ∃ t, step s = .next t ∧ t.cmd = 0#32) ∧
  (∀ (s : State) (w : BitVec 32) (rest : List HostEvent), s.pending = .regWrite 13 (w.setWidth 64) :: rest →
    ∃ t, step s = .next t ∧ t.cmd = w) ∧
  (∀ (s t : State) (e : HostEvent) (rest : List HostEvent), s.pending = e :: rest → e ≠ .hardwareReset →
    (∀ v, e ≠ .regWrite 13 v) → step s = .next t → t.cmd = s.cmd) ∧
  (∀ (s : State) (rest : List HostEvent), s.pending = .regRead 13 :: rest →
    step s = .next { s with pending := rest, answers := s.cmd.setWidth 64 :: s.answers }) ∧
  ∀ (i : Instr) (s t : State), exec i s = .next t → t.cmd = s.cmd

/-- With no host event pending the hardware is idle and holds its state (60_exceptions.md R138, 70_reset_and_hazards.md
R143; the list of pending events is the MODEL's, log entry 1). -/
def Obligations.IdleHoldsState : Prop := ∀ s : State, s.pending = [] → step s = .next s

/-- 10_state.md R14: index, width, access and value after a hardware reset of every register; the indices that name no
register; every register is readable, an RW register writable, and a host write to an RO register is ignored. `LUT_LEN`
and `MAP_LEN` are launch parameters; `BLK` has no reset value. -/
def Obligations.RegisterMapIsTheTable : Prop :=
  (∀ s, (namedRegs.take 24).map
      (fun r => (regIndex r, r, regWidth r, regAccess r, (readReg (hardwareReset s) r).toNat)) =
    [(0, .blockSize, 16, .readWrite, 196), (1, .gridH, 16, .readWrite, 0), (2, .gridV, 16, .readWrite, 0),
     (3, .tileDim, 16, .readOnly, 0x0808), (4, .startH, 16, .readWrite, 0), (5, .startV, 16, .readWrite, 0),
     (6, .sizeH, 16, .readWrite, 0), (7, .sizeV, 16, .readWrite, 0), (8, .code, 16, .readWrite, 0),
     (9, .coordH, 16, .readWrite, 0), (10, .coordV, 16, .readWrite, 0), (11, .srcOff, 64, .readWrite, 0),
     (12, .srcLen, 16, .readWrite, 0), (13, .cmd, 32, .readWrite, 0), (14, .status, 32, .readOnly, 0),
     (15, .errKind, 8, .readOnly, 0), (16, .errH, 32, .readOnly, 0), (17, .errV, 32, .readOnly, 0),
     (18, .errOff, 64, .readOnly, 0), (19, .errCode, 16, .readOnly, 0), (20, .resRgb, 24, .readOnly, 0),
     (21, .resOff, 64, .readOnly, 0), (22, .outW, 32, .readOnly, 0), (23, .outH, 32, .readOnly, 0)]) ∧
  (namedRegs.drop 24).map (fun r => (regIndex r, r, regWidth r, regAccess r)) =
    [(24, .lutLen, 64, .readOnly), (25, .mapLen, 64, .readOnly)] ∧
  (∀ lut map script, readReg (State.launch lut map script) .lutLen = lut.len ∧
    readReg (State.launch lut map script) .mapLen = map.len) ∧
  (∀ i : Fin 64, regIndex (.blk i) = 64 + i.val ∧ regWidth (.blk i) = 32 ∧ regAccess (.blk i) = .readOnly) ∧
  (∀ (n : Nat) (r : Reg), regOfIndex n = some r ↔ regIndex r = n) ∧
  (∀ n : Nat, regOfIndex n = none ↔ (26 ≤ n ∧ n ≤ 63) ∨ 128 ≤ n) ∧
  (∀ (s : State) (n : Nat) (r : Reg) (rest : List HostEvent),
    s.pending = .regRead n :: rest → regOfIndex n = some r → n < 26 →
    step s = .next { s with pending := rest, answers := readReg s r :: s.answers }) ∧
  (∀ (s : State) (n : Nat) (r : Reg) (v : BusValue) (rest : List HostEvent),
    s.pending = .regWrite n v :: rest → regOfIndex n = some r → regAccess r = .readWrite → v.toNat < 2 ^ regWidth r →
    ∃ t, step s = .next t ∧ readReg t r = v) ∧
  ∀ (s : State) (n : Nat) (r : Reg) (v : BusValue) (rest : List HostEvent),
    s.pending = .regWrite n v :: rest → regOfIndex n = some r → regAccess r = .readOnly → v.toNat < 2 ^ regWidth r →
    step s = .next { s with pending := rest }

/-- `RegRead(i)` answers the register's value and changes nothing else (10_state.md R40); an entry of `BLK` is read while
`BLK_VALID` is 1 (70_reset_and_hazards.md R149). -/
def Obligations.RegReadAnswersValue : Prop :=
  ∀ (s : State) (n : Nat) (r : Reg) (rest : List HostEvent),
    s.pending = .regRead n :: rest → regOfIndex n = some r → (∀ i, r = .blk i → s.flag .blkValid = true) →
    step s = .next { s with pending := rest, answers := readReg s r :: s.answers }

/-- While `BLK_VALID` is 0 a read of an entry of `BLK` answers some 32-bit value, which the spec leaves unspecified
(70_reset_and_hazards.md R149), and changes no state of the spec's. That a free value is drawn is the MODEL's (log
entry 8). -/
def Obligations.InvalidBlkReadAnswersFreeValue : Prop :=
  ∀ (s : State) (i : Fin 64) (rest : List HostEvent),
    s.pending = .regRead (64 + i.val) :: rest → s.flag .blkValid = false →
    ∃ v : BitVec 32, step s = .next { s with
      pending := rest, answers := v.setWidth 64 :: s.answers, freeCount := s.freeCount + 1 }

/-- A host read of a grid byte answers the byte while `OUT_VALID` is 1 and the byte holds a specified value; otherwise
some byte (20_memory.md R46, 70_reset_and_hazards.md R149, 93_implementation_defined.md U2, U3). That a free value is
drawn, and afresh at each read, is the MODEL's (log entries 8, 9 and 10). -/
def Obligations.GridReadAnswersByte : Prop :=
  ∀ (s : State) (g : Grid) (a : Nat) (rest : List HostEvent), s.pending = .gridRead g a :: rest →
    (∀ b : Byte, s.flag .outValid = true → s.byteAt (.grid g) a = some b →
      step s = .next { s with pending := rest, answers := b.setWidth 64 :: s.answers }) ∧
    (s.flag .outValid = false ∨ s.byteAt (.grid g) a = none →
      ∃ b : Byte, step s = .next { s with
        pending := rest, answers := b.setWidth 64 :: s.answers, freeCount := s.freeCount + 1 })

/-- `RegWrite(i, v)` to an RW register other than `CMD` stores v and does nothing else (10_state.md R40). -/
def Obligations.RegWriteStoresOnly : Prop :=
  ∀ (s : State) (n : Nat) (r : Reg) (v : BusValue) (rest : List HostEvent),
    s.pending = .regWrite n v :: rest → regOfIndex n = some r → regAccess r = .readWrite → r ≠ .cmd →
    v.toNat < 2 ^ regWidth r →
    ∃ t, step s = .next t ∧ readReg t r = v ∧ (∀ r', r' ≠ r → readReg t r' = readReg s r') ∧
      (∀ sp a, t.byteAt sp a = s.byteAt sp a) ∧ t.pending = rest ∧ t.answers = s.answers ∧ t.freeCount = s.freeCount

/-- A step is refused exactly when the next host event is an access that 10_state.md R40 puts outside the spec: an index
that names no register, or a value that does not fit the register (log entry 14). -/
def Obligations.RefusesExactlyOutsideAccesses : Prop :=
  ∀ s : State, (∃ r, step s = .refused r) ↔ ∃ e rest, s.pending = e :: rest ∧ e.wf = false

/-- A register written by the host is seen by the very next command (20_memory.md R58 (a), R62; 70_reset_and_hazards.md
R155): two steps of the machine are the operation on the state with the register and `CMD` stored. -/
def Obligations.WrittenOperandSeenByNextCommand : Prop :=
  ∀ (s : State) (n : Nat) (r : Reg) (v : BusValue) (i : Instr) (rest : List HostEvent),
    s.pending = .regWrite n v :: .regWrite 13 ((encode i).setWidth 64) :: rest →
    regOfIndex n = some r → regAccess r = .readWrite → r ≠ .cmd → v.toNat < 2 ^ regWidth r →
    ∃ s1, step s = .next s1 ∧ step s1 = exec i { storeReg r v s with pending := rest, cmd := encode i }

/-- 30_encoding.md R86: the expansion of each pseudo-operation of the host script notation, as the register accesses it
stands for, indices and command words written out. -/
def Obligations.ScriptPseudoOperationsExpand : Prop :=
  (∀ code, scriptLineEvents (.resolveCode code) = [.regWrite 8 (code.setWidth 64), .regWrite 13 1#64]) ∧
  (∀ h v, scriptLineEvents (.offsetOf h v) =
    [.regWrite 9 (h.setWidth 64), .regWrite 10 (v.setWidth 64), .regWrite 13 2#64]) ∧
  (∀ off len, scriptLineEvents (.decodeAt off len) =
    [.regWrite 11 off, .regWrite 12 (len.setWidth 64), .regWrite 13 3#64]) ∧
  (∀ h v w ht, scriptLineEvents (.renderArea h v w ht) =
    [.regWrite 4 (h.setWidth 64), .regWrite 5 (v.setWidth 64), .regWrite 6 (w.setWidth 64),
      .regWrite 7 (ht.setWidth 64), .regWrite 13 4#64]) ∧
  ∀ gh gv, scriptLineEvents (.grid gh gv) = [.regWrite 1 (gh.setWidth 64), .regWrite 2 (gv.setWidth 64)]

/-! Reset -/

/-- What a hardware reset leaves (10_state.md R44, 70_reset_and_hazards.md R141). That `BLK` holds free values, that no
byte of the grids holds a specified one, and that the host's own events and answers are kept is the MODEL's form (log
entries 7, 9 and 17). -/
def Obligations.HardwareResetLeaves : Prop :=
  ∀ (s : State) (rest : List HostEvent), s.pending = .hardwareReset :: rest →
    ∃ t, step s = .next t ∧
      readReg t .blockSize = 196#64 ∧ readReg t .tileDim = 0x0808#64 ∧
      (∀ r, regIndex r < 24 → r ≠ .blockSize → r ≠ .tileDim → readReg t r = 0#64) ∧
      (∀ f, t.flag f = false) ∧ t.errKind = 0#8 ∧
      t.lut = s.lut ∧ t.map = s.map ∧ readReg t .lutLen = readReg s .lutLen ∧ readReg t .mapLen = readReg s .mapLen ∧
      (∀ i : Fin 64, t.blk[i] = Config.freeEntry s.freeCount i.val) ∧
      (∀ g a, t.byteAt (.grid g) a = none) ∧
      t.pending = rest ∧ t.answers = s.answers

/-- 70_reset_and_hazards.md R142: the reset values in full, for every pair of input buffers; that `OFFSET` and `RENDER`
without a grid height and `DECODE` without a length fail, in any state; and that `RESOLVE` of code 0 straight after a
reset is well defined. -/
def Obligations.ResetValuesFailSafely : Prop :=
  ∀ (lut map : Buffer) (script : List HostEvent),
    let s := State.launch lut map script
    (s.blockSize = 196#16 ∧ s.gridH = 0#16 ∧ s.gridV = 0#16 ∧ readReg s .tileDim = 0x0808#64 ∧
      s.startH = 0#16 ∧ s.startV = 0#16 ∧ s.sizeH = 0#16 ∧ s.sizeV = 0#16 ∧
      s.code = 0#16 ∧ s.coordH = 0#16 ∧ s.coordV = 0#16 ∧ s.srcOff = 0#64 ∧ s.srcLen = 0#16 ∧
      s.cmd = 0#32 ∧ s.status = 0#32 ∧ s.errKind = 0#8 ∧ s.errH = 0#32 ∧ s.errV = 0#32 ∧ s.errOff = 0#64 ∧
      s.errCode = 0#16 ∧ s.resRgb = 0#24 ∧ s.resOff = 0#64 ∧ s.outW = 0#32 ∧ s.outH = 0#32) ∧
    (∀ s' : State, s'.gridV = 0#16 → ∃ t, exec .offset s' = .next t ∧ t.errKind = 1#8) ∧
    (∀ s' : State, s'.gridV = 0#16 → ∃ t, exec .render s' = .next t ∧ (t.errKind = 1#8 ∨ t.errKind = 4#8)) ∧
    (∀ s' : State, s'.srcLen = 0#16 → ∃ t, exec .decode s' = .next t ∧ t.errKind = 2#8) ∧
    (2 ≤ lut.len.toNat → ∃ t, exec .resolve s = .next t ∧ t.errKind = 0#8 ∧ t.resRgb = (colourOf s 0#16).word)

/-! The functions -/

/-- 41_color_lut.md R88, with its examples: the channels are the five-bit fields above three zero bits, bit 15 is not
read, and each result is a multiple of 8 in [0, 248]. -/
def Obligations.Expand555ShiftsChannels : Prop :=
  (∀ w : BitVec 16,
    (expand555 w).r.toNat = w.toNat / 1024 % 32 * 8 ∧ (expand555 w).g.toNat = w.toNat / 32 % 32 * 8 ∧
    (expand555 w).b.toNat = w.toNat % 32 * 8 ∧ expand555 (w ^^^ 0x8000#16) = expand555 w ∧
    ∀ c, c = (expand555 w).r ∨ c = (expand555 w).g ∨ c = (expand555 w).b → c.toNat % 8 = 0 ∧ c.toNat ≤ 248) ∧
  expand555 0x0000#16 = ⟨0, 0, 0⟩ ∧ expand555 0x7C00#16 = ⟨248, 0, 0⟩ ∧ expand555 0x03E0#16 = ⟨0, 248, 0⟩ ∧
  expand555 0x001F#16 = ⟨0, 0, 248⟩ ∧ expand555 0x0421#16 = ⟨8, 8, 8⟩ ∧ expand555 0x8000#16 = ⟨0, 0, 0⟩ ∧
  expand555 0x7FFF#16 = ⟨248, 248, 248⟩ ∧ expand555 0xFFFF#16 = ⟨248, 248, 248⟩

/-- 43_block_decoder.md R100, with its examples: the code is the first two bytes, low byte first, and the height the
third as a signed byte. -/
def Obligations.CellUnpackSplitsEntry : Prop :=
  (∀ b0 b1 b2 : Byte,
    (cellUnpack (b2 ++ b1 ++ b0)).1.toNat = b0.toNat + 256 * b1.toNat ∧
    (cellUnpack (b2 ++ b1 ++ b0)).2.toInt = if 128 ≤ b2.toNat then (b2.toNat : Int) - 256 else b2.toNat) ∧
  (cellUnpack 0xFB1234#24).1 = 0x1234#16 ∧ (cellUnpack 0xFB1234#24).2.toInt = -5 ∧
  (cellUnpack 0x80FFFF#24).1 = 0xFFFF#16 ∧ (cellUnpack 0x80FFFF#24).2.toInt = -128 ∧
  (cellUnpack 0x7F0000#24).1 = 0#16 ∧ (cellUnpack 0x7F0000#24).2.toInt = 127

/-- 30_encoding.md R81: the grey level is the signed height plus 128, exactly, with no clamp and no wrap. -/
def Obligations.GreyIsExactBias : Prop :=
  ∀ h : BitVec 8, ((grey h).toNat : Int) = h.toInt + 128 ∧ 0 ≤ h.toInt + 128 ∧ h.toInt + 128 ≤ 255

/-- 42_block_index.md R95: injectivity of the block offset, the spacing of distinct records, and the failure of
injectivity at block size 0. -/
def Obligations.BlockOffsetInjective : Prop :=
  (∀ (h1 v1 h2 v2 bs gv o1 o2 : Nat), 0 < bs → 0 < gv → (h1, v1) ≠ (h2, v2) →
    blockOffset h1 v1 bs gv = some o1 → blockOffset h2 v2 bs gv = some o2 →
    o1 ≠ o2 ∧ (o1 + bs ≤ o2 ∨ o2 + bs ≤ o1)) ∧
  (∀ (h1 v1 h2 v2 gv o1 o2 : Nat), (h1, v1) ≠ (h2, v2) →
    blockOffset h1 v1 196 gv = some o1 → blockOffset h2 v2 196 gv = some o2 →
    ∀ k1 k2, k1 < 196 → k2 < 196 → o1 + k1 ≠ o2 + k2) ∧
  ∀ h v gv, v < gv → blockOffset h v 0 gv = some 0

/-- 42_block_index.md R97: H varies slowest. The block after (H, V) is (H, V + 1), the block after the last of a column
is the first of the next, and the row-major formula is another function. -/
def Obligations.BlockOffsetColumnMajor : Prop :=
  (∀ (h v bs gv o : Nat), v + 1 < gv → blockOffset h v bs gv = some o → blockOffset h (v + 1) bs gv = some (o + bs)) ∧
  (∀ (h bs gv o : Nat), 0 < gv → blockOffset h (gv - 1) bs gv = some o → blockOffset (h + 1) 0 bs gv = some (o + bs)) ∧
  blockOffset 3 7 196 512 = some 302428 ∧ blockOffset 7 3 196 512 = some 703052

/-! RESOLVE -/

/-- 41_color_lut.md R87 whole: the result and its layout, the error record, the flags, that nothing else changes, the
corner cases and the example. -/
def Obligations.ResolveRule : Prop :=
  (∀ s : State, CodeResolves s s.code →
    exec .resolve s = .next { s with
      resRgb := (colourOf s s.code).r ++ (colourOf s s.code).g ++ (colourOf s s.code).b
      errKind := 0#8, errH := 0#32, errV := 0#32, errOff := 0#64, errCode := 0#16
      status := statusOk s.status }) ∧
  (∀ s : State, ¬ CodeResolves s s.code →
    exec .resolve s = .next { s with
      errKind := 1#8, errH := 0#32, errV := 0#32, errOff := BitVec.ofNat 64 (2 * s.code.toNat), errCode := s.code
      status := statusErr s.status }) ∧
  (∀ s : State, s.code = 65535#16 → (CodeResolves s s.code ↔ 131072 ≤ s.lut.len.toNat)) ∧
  (∀ s : State, s.lut.len = 0#64 ∨ s.lut.len = 1#64 → ¬ CodeResolves s s.code) ∧
  (∀ (s : State) (n : Nat), s.lut.len.toNat = 2 * n ∨ s.lut.len.toNat = 2 * n + 1 →
    (CodeResolves s s.code ↔ s.code.toNat < min n 65536)) ∧
  (∀ w : BitVec 16, rgbOfWord (w ^^^ 0x8000#16) = rgbOfWord w) ∧
  ∀ s : State, s.lut.byteAt 0x2468 = 0x34#8 → s.lut.byteAt 0x2469 = 0x12#8 → s.lut.len = 131072#64 →
    s.code = 0x1234#16 → ∃ t, exec .resolve s = .next t ∧ t.resRgb = 0x2088A0#24

/-- 41_color_lut.md R90: the colour depends on the two bytes of the look-up word alone, on no register but `CODE` and on
no state left by earlier commands. -/
def Obligations.ResolveReadsTwoBytes : Prop :=
  ∀ s s' : State, s.code = s'.code → CodeResolves s s.code → CodeResolves s' s'.code →
    s.lut.byteAt (2 * s.code.toNat) = s'.lut.byteAt (2 * s.code.toNat) →
    s.lut.byteAt (2 * s.code.toNat + 1) = s'.lut.byteAt (2 * s.code.toNat + 1) →
    ∃ t t', exec .resolve s = .next t ∧ exec .resolve s' = .next t' ∧ t.resRgb = t'.resRgb ∧
      t.resRgb = (rgbOfWord (lutWord s s.code)).word

/-! OFFSET -/

/-- 42_block_index.md R93 whole: the result, the error record, the flags, that nothing else changes (so `MAP` plays no
part), the corner cases and the example. -/
def Obligations.OffsetRule : Prop :=
  (∀ s : State, s.coordV.toNat < s.gridV.toNat →
    s.blockSize.toNat * (s.coordH.toNat * s.gridV.toNat + s.coordV.toNat) < 2 ^ 48 ∧
    exec .offset s = .next { s with
      resOff := BitVec.ofNat 64 (s.blockSize.toNat * (s.coordH.toNat * s.gridV.toNat + s.coordV.toNat))
      errKind := 0#8, errH := 0#32, errV := 0#32, errOff := 0#64, errCode := 0#16
      status := statusOk s.status }) ∧
  (∀ s : State, s.gridV.toNat ≤ s.coordV.toNat →
    exec .offset s = .next { s with
      errKind := 1#8, errH := s.coordH.setWidth 32, errV := s.coordV.setWidth 32, errOff := 0#64, errCode := 0#16
      status := statusErr s.status }) ∧
  (∀ s : State, s.gridV = 0#16 → ∃ t, exec .offset s = .next t ∧ t.errKind = 1#8) ∧
  (∀ s : State, s.blockSize = 0#16 → s.coordV.toNat < s.gridV.toNat → ∃ t, exec .offset s = .next t ∧ t.resOff = 0#64) ∧
  (∀ s : State, s.gridH.toNat ≤ s.coordH.toNat → s.coordV.toNat < s.gridV.toNat →
    ∃ t, exec .offset s = .next t ∧ t.errKind = 0#8) ∧
  (∀ s : State, s.coordH = 65535#16 → s.coordV = 65534#16 → s.gridV = 65535#16 → s.blockSize = 65535#16 →
    ∃ t, exec .offset s = .next t ∧ t.resOff = 281466386776065#64) ∧
  ∀ s : State, s.coordH = 895#16 → s.coordV = 511#16 → s.gridV = 512#16 → s.blockSize = 196#16 →
    ∃ t, exec .offset s = .next t ∧ t.resOff = 89915196#64

/-! DECODE -/

/-- `DECODE` of a record that lies inside `MAP` and whose codes all resolve (43_block_decoder.md R98, R101, R104): entry
i of `BLK` is the raw height and the colour of cell entry i of the record, `BLK_VALID` is set, and nothing else
changes but the error registers and the flags. -/
def Obligations.DecodeCompletes : Prop :=
  ∀ s : State, s.srcLen = 196#16 → s.srcOff.toNat + 196 ≤ s.map.len.toNat → CellsResolve s s.srcOff.toNat 64 →
    exec .decode s = .next { s with
      blk := Vector.ofFn fun i : Fin 64 =>
        let c := colourOf s (cellCode s s.srcOff.toNat i.val)
        cellHeight s s.srcOff.toNat i.val ++ c.r ++ c.g ++ c.b
      errKind := 0#8, errH := 0#32, errV := 0#32, errOff := 0#64, errCode := 0#16
      status := (s.status ||| 5#32) &&& ~~~2#32 }

/-- `DECODE` with a length other than 196 raises `MalformedBlock` whatever the offset, shorter or longer alike
(43_block_decoder.md R98, R105); what `BLK` holds is not said. -/
def Obligations.DecodeWrongLengthMalformed : Prop :=
  ∀ s : State, s.srcLen ≠ 196#16 →
    ∃ t, exec .decode s = .next t ∧ t = { s with
      errKind := 2#8, errH := 0#32, errV := 0#32, errOff := s.srcOff, errCode := 0#16
      status := (s.status ||| 3#32) &&& ~~~4#32, blk := t.blk, freeCount := t.freeCount }

/-- `DECODE` of a record that does not lie inside `MAP`, the sum exact, raises `TruncatedBuffer` (43_block_decoder.md R98,
60_exceptions.md R120); what `BLK` holds is not said. -/
def Obligations.DecodeOutsideMapTruncated : Prop :=
  ∀ s : State, s.srcLen = 196#16 → s.map.len.toNat < s.srcOff.toNat + 196 →
    ∃ t, exec .decode s = .next t ∧ t = { s with
      errKind := 3#8, errH := 0#32, errV := 0#32, errOff := s.srcOff, errCode := 0#16
      status := (s.status ||| 3#32) &&& ~~~4#32, blk := t.blk, freeCount := t.freeCount }

/-- `DECODE` of a record with a code that does not resolve raises `MalformedBlock` with the code of the first such cell in
raster order (43_block_decoder.md R98, R103); what `BLK` holds is not said. -/
def Obligations.DecodeReportsFirstUnresolvedCode : Prop :=
  ∀ (s : State) (k : Nat), s.srcLen = 196#16 → s.srcOff.toNat + 196 ≤ s.map.len.toNat → k < 64 →
    CellsResolve s s.srcOff.toNat k → ¬ CodeResolves s (cellCode s s.srcOff.toNat k) →
    ∃ t, exec .decode s = .next t ∧ t = { s with
      errKind := 2#8, errH := 0#32, errV := 0#32, errOff := s.srcOff, errCode := cellCode s s.srcOff.toNat k
      status := (s.status ||| 3#32) &&& ~~~4#32, blk := t.blk, freeCount := t.freeCount }

/-- 43_block_decoder.md R102: two map buffers that differ only outside the 192 bytes after the header of the record decode
alike, with or without an error; the block decoder first, then `DECODE`. -/
def Obligations.DecodeIgnoresHeader : Prop :=
  (∀ (s : State) (m : Buffer) (base : Nat), m.len = s.map.len →
    (∀ a, base + 4 ≤ a → a < base + 196 → m.byteAt a = s.map.byteAt a) →
    decodeBlock { s with map := m } base = decodeBlock s base) ∧
  ∀ (s t : State) (m : Buffer), m.len = s.map.len →
    (∀ a, s.srcOff.toNat + 4 ≤ a → a < s.srcOff.toNat + 196 → m.byteAt a = s.map.byteAt a) →
    exec .decode s = .next t → exec .decode { s with map := m } = .next { t with map := m }

/-! RENDER -/

/-- 44_area_renderer.md R116: a size of 0 or a block size other than 196 raises `Illegal`, before any other state is
written, with the same record for all three. -/
def Obligations.RenderIllegalArea : Prop :=
  ∀ s : State, s.sizeH = 0#16 ∨ s.sizeV = 0#16 ∨ s.blockSize ≠ 196#16 →
    exec .render s = .next { s with
      errKind := 4#8, errH := 0#32, errV := 0#32, errOff := 0#64, errCode := 0#16, status := statusErr s.status }

/-- `RENDER` of a legal area whose blocks all pass their checks (44_area_renderer.md R106, R107, R108, R111, R113): the
colour and the grey level of cell (h, v) of the block in column i, row j of the area at pixel (8 × i + h, 8 × j + v),
the dimensions and the flags; nothing else changes but `BLK`, which becomes unspecified, and no byte of the output
spaces outside the new grids. -/
def Obligations.RenderCompletes : Prop :=
  ∀ s : State, AreaLegal s → AreaPasses s →
    ∃ t, exec .render s = .next t ∧
      t = { s with
        outW := BitVec.ofNat 32 (8 * s.sizeH.toNat)
        outH := BitVec.ofNat 32 (8 * s.sizeV.toNat)
        errKind := 0#8, errH := 0#32, errV := 0#32, errOff := 0#64, errCode := 0#16
        status := (s.status ||| 9#32) &&& ~~~6#32
        blk := t.blk, freeCount := t.freeCount, cgrid := t.cgrid, hgrid := t.hgrid } ∧
      (∀ i j h v, i < s.sizeH.toNat → j < s.sizeV.toNat → h < 8 → v < 8 →
        let px := cellPixel s (recordOffset s (s.startH.toNat + i) (s.startV.toNat + j)) (8 * v + h)
        let o := colourOffset (8 * i + h) (8 * j + v) (8 * s.sizeH.toNat)
        t.byteAt (.grid .colour) o = some px.rgb.r ∧ t.byteAt (.grid .colour) (o + 1) = some px.rgb.g ∧
        t.byteAt (.grid .colour) (o + 2) = some px.rgb.b ∧
        t.byteAt (.grid .height) (heightOffset (8 * i + h) (8 * j + v) (8 * s.sizeH.toNat)) = some (grey px.height)) ∧
      (∀ a, (∀ x y k, x < 8 * s.sizeH.toNat → y < 8 * s.sizeV.toNat → k < 3 →
          a ≠ colourOffset x y (8 * s.sizeH.toNat) + k) →
        t.byteAt (.grid .colour) a = s.byteAt (.grid .colour) a) ∧
      ∀ a, (∀ x y, x < 8 * s.sizeH.toNat → y < 8 * s.sizeV.toNat → a ≠ heightOffset x y (8 * s.sizeH.toNat)) →
        t.byteAt (.grid .height) a = s.byteAt (.grid .height) a

/-- 44_area_renderer.md R114: after a successful `RENDER` every tile of the grids is its block's independent decoding,
and rendering again gives the same bytes. -/
def Obligations.RenderMatchesIndependentDecode : Prop :=
  ∀ s t : State, exec .render s = .next t → t.flag .err = false →
    (∀ i j, i < s.sizeH.toNat → j < s.sizeV.toNat →
      ∃ o tile, blockOffset (s.startH.toNat + i) (s.startV.toNat + j) 196 s.gridV.toNat = some o ∧
        decodeBlock s o = .ok (.pixels tile) ∧
        ∀ h v, h < 8 → v < 8 → ∃ px, tile[8 * v + h]? = some px ∧
          (∀ k, k < 3 → t.byteAt (.grid .colour) (3 * ((8 * j + v) * (8 * s.sizeH.toNat) + (8 * i + h)) + k) =
            [px.rgb.r, px.rgb.g, px.rgb.b][k]?) ∧
          t.byteAt (.grid .height) ((8 * j + v) * (8 * s.sizeH.toNat) + (8 * i + h)) = some (grey px.height)) ∧
    ∃ t', exec .render t = .next t' ∧ t'.flag .err = false ∧ t'.outW = t.outW ∧ t'.outH = t.outH ∧
      ∀ g a, t'.byteAt (.grid g) a = t.byteAt (.grid g) a

/-- `RENDER` that reaches, with every block before it passed, a block whose row is not below `GRID_V` raises `OutOfRange`
with the block's coordinate (44_area_renderer.md R106, R110; 60_exceptions.md R118 (c), R123, R124). -/
def Obligations.RenderRowOutsideGridOutOfRange : Prop :=
  ∀ (s : State) (i j : Nat), AreaLegal s → i < s.sizeH.toNat → j < s.sizeV.toNat → PassesBefore s i j →
    s.gridV.toNat ≤ s.startV.toNat + j →
    ∃ t, exec .render s = .next t ∧ RenderFailedWith s t 1#8 (s.startH.toNat + i) (s.startV.toNat + j) 0 0#16

/-- `RENDER` that reaches, with every block before it passed, a block inside the grid whose record does not lie inside
`MAP` raises `TruncatedBuffer` with the block's coordinate and offset (44_area_renderer.md R106, R110; 60_exceptions.md
R120 (a), R123, R124). -/
def Obligations.RenderRecordOutsideMapTruncated : Prop :=
  ∀ (s : State) (i j : Nat), AreaLegal s → i < s.sizeH.toNat → j < s.sizeV.toNat → PassesBefore s i j →
    s.startV.toNat + j < s.gridV.toNat →
    s.map.len.toNat < recordOffset s (s.startH.toNat + i) (s.startV.toNat + j) + 196 →
    ∃ t, exec .render s = .next t ∧ RenderFailedWith s t 3#8 (s.startH.toNat + i) (s.startV.toNat + j)
      (recordOffset s (s.startH.toNat + i) (s.startV.toNat + j)) 0#16

/-- `RENDER` that reaches, with every block before it passed, a record inside `MAP` with a code that does not resolve
raises `MalformedBlock` with the block's coordinate, its offset and the first such code (44_area_renderer.md R106, R110;
60_exceptions.md R119 (b), R123, R124). -/
def Obligations.RenderUnresolvedCodeMalformed : Prop :=
  ∀ (s : State) (i j k : Nat), AreaLegal s → i < s.sizeH.toNat → j < s.sizeV.toNat → PassesBefore s i j →
    s.startV.toNat + j < s.gridV.toNat →
    recordOffset s (s.startH.toNat + i) (s.startV.toNat + j) + 196 ≤ s.map.len.toNat → k < 64 →
    CellsResolve s (recordOffset s (s.startH.toNat + i) (s.startV.toNat + j)) k →
    ¬ CodeResolves s (cellCode s (recordOffset s (s.startH.toNat + i) (s.startV.toNat + j)) k) →
    ∃ t, exec .render s = .next t ∧ RenderFailedWith s t 2#8 (s.startH.toNat + i) (s.startV.toNat + j)
      (recordOffset s (s.startH.toNat + i) (s.startV.toNat + j))
      (cellCode s (recordOffset s (s.startH.toNat + i) (s.startV.toNat + j)) k)

/-- 60_exceptions.md R139: under the boot requirements a `RENDER` whose area lies inside the grid raises no error. -/
def Obligations.RenderInsideGridRaisesNoError : Prop :=
  ∀ s : State, BootReady s → AreaInsideGrid s → AreaLegal s →
    ∃ t, exec .render s = .next t ∧ t.flag .err = false ∧ t.errKind = 0#8 ∧ t.flag .outValid = true

/-! The machine as a whole -/

/-- Every operation completes, in every state (70_reset_and_hazards.md R157, 60_exceptions.md R140). -/
def Obligations.EveryCommandCompletes : Prop := ∀ (i : Instr) (s : State), ∃ t, exec i s = .next t

/-- No step reads a byte outside an input buffer: the one fault of the model, which stands for such a read, is reached
from no state (20_memory.md R64; log entry 15). -/
def Obligations.NoReadOutsideBuffers : Prop := ∀ (s : State) (f : Fault), step s ≠ .fault f

/-- 60_exceptions.md R122: which operation can raise which kind, and that it can. -/
def Obligations.KindsPerOperation : Prop :=
  (∀ (i : Instr) (s t : State), exec i s = .next t →
    match i with
    | .resolve => t.errKind = 0#8 ∨ t.errKind = 1#8
    | .offset => t.errKind = 0#8 ∨ t.errKind = 1#8
    | .decode => t.errKind = 0#8 ∨ t.errKind = 2#8 ∨ t.errKind = 3#8
    | .render => t.errKind = 0#8 ∨ t.errKind = 1#8 ∨ t.errKind = 2#8 ∨ t.errKind = 3#8 ∨ t.errKind = 4#8) ∧
  (∀ p ∈ [(Instr.resolve, 1#8), (.offset, 1#8), (.decode, 2#8), (.decode, 3#8), (.render, 1#8), (.render, 2#8),
      (.render, 3#8), (.render, 4#8)],
    ∃ s t : State, exec p.1 s = .next t ∧ t.errKind = p.2) ∧
  ∀ (s : State) (w : BitVec 32) (rest : List HostEvent) (why : ReservedWord),
    s.pending = .regWrite 13 (w.setWidth 64) :: rest → decodeCommand w = .reserved why →
    ∃ t, step s = .next t ∧ t.errKind = 4#8

/-- 60_exceptions.md R123, row by row: what `ERR_KIND`, `ERR_H`, `ERR_V`, `ERR_OFF` and `ERR_CODE` hold after each cause of
each operation and after a reserved word, every register not named in a row 0; and how a host tells the two failures of
`DECODE` with `ERR_CODE` 0 apart. The block a failed `RENDER` records is the first that fails (R124). Without an error all
are 0 (R127). -/
def Obligations.ErrorRegistersDescribeLastCommand : Prop :=
  (∀ (i : Instr) (s t : State), exec i s = .next t →
    (t.errKind = 0#8 ∨ t.errKind = 4#8 → t.errH = 0#32 ∧ t.errV = 0#32 ∧ t.errOff = 0#64 ∧ t.errCode = 0#16)) ∧
  (∀ s t : State, exec .resolve s = .next t →
    (t.errKind = 0#8 ↔ CodeResolves s s.code) ∧
    (t.errKind ≠ 0#8 → t.errKind = 1#8 ∧ t.errH = 0#32 ∧ t.errV = 0#32 ∧ t.errOff.toNat = 2 * s.code.toNat ∧
      t.errCode = s.code)) ∧
  (∀ s t : State, exec .offset s = .next t →
    (t.errKind = 0#8 ↔ s.coordV.toNat < s.gridV.toNat) ∧
    (t.errKind ≠ 0#8 → t.errKind = 1#8 ∧ t.errH.toNat = s.coordH.toNat ∧ t.errV.toNat = s.coordV.toNat ∧
      t.errOff = 0#64 ∧ t.errCode = 0#16)) ∧
  (∀ s t : State, exec .decode s = .next t →
    t.errH = 0#32 ∧ t.errV = 0#32 ∧ (t.errKind ≠ 0#8 → t.errOff = s.srcOff) ∧
    (s.srcLen ≠ 196#16 → t.errKind = 2#8 ∧ t.errCode = 0#16) ∧
    (s.srcLen = 196#16 → s.map.len.toNat < s.srcOff.toNat + 196 → t.errKind = 3#8 ∧ t.errCode = 0#16) ∧
    (s.srcLen = 196#16 → s.srcOff.toNat + 196 ≤ s.map.len.toNat →
      (CellsResolve s s.srcOff.toNat 64 → t.errKind = 0#8) ∧
      ∀ k, k < 64 → CellsResolve s s.srcOff.toNat k → ¬ CodeResolves s (cellCode s s.srcOff.toNat k) →
        t.errKind = 2#8 ∧ t.errCode = cellCode s s.srcOff.toNat k) ∧
    (t.errKind = 2#8 → t.errCode = 0#16 → s.srcLen = 196#16 → s.lut.len.toNat < 2)) ∧
  (∀ s t : State, exec .render s = .next t →
    (t.errKind = 4#8 ↔ ¬ AreaLegal s) ∧ (t.errKind = 0#8 ↔ AreaLegal s ∧ AreaPasses s) ∧
    (t.errKind ≠ 0#8 → t.errKind ≠ 4#8 →
      ∃ i j, i < s.sizeH.toNat ∧ j < s.sizeV.toNat ∧ PassesBefore s i j ∧
        t.errH.toNat = s.startH.toNat + i ∧ t.errV.toNat = s.startV.toNat + j ∧
        let o := recordOffset s (s.startH.toNat + i) (s.startV.toNat + j)
        (s.gridV.toNat ≤ s.startV.toNat + j ∧ t.errKind = 1#8 ∧ t.errOff = 0#64 ∧ t.errCode = 0#16) ∨
        (s.startV.toNat + j < s.gridV.toNat ∧ s.map.len.toNat < o + 196 ∧
          t.errKind = 3#8 ∧ t.errOff.toNat = o ∧ t.errCode = 0#16) ∨
        (s.startV.toNat + j < s.gridV.toNat ∧ o + 196 ≤ s.map.len.toNat ∧ t.errKind = 2#8 ∧ t.errOff.toNat = o ∧
          ∃ k, k < 64 ∧ CellsResolve s o k ∧ ¬ CodeResolves s (cellCode s o k) ∧ t.errCode = cellCode s o k))) ∧
  ∀ (w : BitVec 32) (why : ReservedWord) (s t : State), decodeCommand w = .reserved why → runCommand w s = .next t →
    t.errKind = 4#8 ∧ t.errH = 0#32 ∧ t.errV = 0#32 ∧ t.errOff = 0#64 ∧ t.errCode = 0#16

/-- 10_state.md R30: the register and the places of its flags; for every command word what sets and what clears each
flag, that bits 31:4 stay zero and that `ERR` tells `ERR_KIND`; a reset clears all; no other host event writes a flag,
and no operation reads one. -/
def Obligations.StatusFlagsTable : Prop :=
  (regIndex .status = 14 ∧ regWidth .status = 32 ∧ regAccess .status = .readOnly ∧ State.reset.status = 0#32) ∧
  (∀ s : State, s.flag .done = s.status.getLsbD 0 ∧ s.flag .err = s.status.getLsbD 1 ∧
    s.flag .blkValid = s.status.getLsbD 2 ∧ s.flag .outValid = s.status.getLsbD 3) ∧
  (∀ (s : State) (rest : List HostEvent), s.pending = .hardwareReset :: rest →
    ∃ t, step s = .next t ∧ t.status = 0#32) ∧
  (∀ (s t : State) (e : HostEvent) (rest : List HostEvent), s.pending = e :: rest → e ≠ .hardwareReset →
    (∀ v, e ≠ .regWrite 13 v) → step s = .next t → t.status = s.status) ∧
  (∀ (w : BitVec 32) (s t : State), runCommand w s = .next t →
    t.flag .done = true ∧ (t.flag .err = true ↔ t.errKind ≠ 0#8) ∧
    t.flag .blkValid = (match decodeCommand w with
      | .instr .decode => !t.flag .err
      | .instr .render => if t.errKind = 4#8 then s.flag .blkValid else false
      | .instr .resolve => s.flag .blkValid
      | .instr .offset => s.flag .blkValid
      | .reserved _ => s.flag .blkValid) ∧
    t.flag .outValid = (match decodeCommand w with
      | .instr .render => if t.errKind = 4#8 then s.flag .outValid else !t.flag .err
      | .instr .resolve => s.flag .outValid
      | .instr .offset => s.flag .outValid
      | .instr .decode => s.flag .outValid
      | .reserved _ => s.flag .outValid) ∧
    (s.status.toNat < 16 → t.status.toNat < 16)) ∧
  ∀ (w x : BitVec 32) (s t : State), runCommand w s = .next t →
    ∃ t', runCommand w { s with status := x } = .next t' ∧ t' = { t with status := t'.status }

/-- No operation writes a configuration or operand register, `CMD` or an input buffer (10_state.md R41, 20_memory.md R45),
nor the host's own fields. -/
def Obligations.OperandsNeverWritten : Prop :=
  ∀ (i : Instr) (s t : State), exec i s = .next t →
    t.blockSize = s.blockSize ∧ t.gridH = s.gridH ∧ t.gridV = s.gridV ∧ t.startH = s.startH ∧ t.startV = s.startV ∧
    t.sizeH = s.sizeH ∧ t.sizeV = s.sizeV ∧ t.code = s.code ∧ t.coordH = s.coordH ∧ t.coordV = s.coordV ∧
    t.srcOff = s.srcOff ∧ t.srcLen = s.srcLen ∧ t.cmd = s.cmd ∧ t.lut = s.lut ∧ t.map = s.map ∧
    t.pending = s.pending ∧ t.answers = s.answers

/-- 10_state.md R35: `RES_RGB` is written by a successful `RESOLVE` only, with R, G and B in its three bytes. -/
def Obligations.ResRgbWrittenByResolveOnly : Prop :=
  regIndex .resRgb = 20 ∧ regWidth .resRgb = 24 ∧ regAccess .resRgb = .readOnly ∧ State.reset.resRgb = 0#24 ∧
  ∀ (w : BitVec 32) (s t : State), runCommand w s = .next t →
    (w ≠ encode .resolve ∨ t.flag .err = true → t.resRgb = s.resRgb) ∧
    (w = encode .resolve → t.flag .err = false →
      t.resRgb.extractLsb' 16 8 = (colourOf s s.code).r ∧ t.resRgb.extractLsb' 8 8 = (colourOf s s.code).g ∧
      t.resRgb.extractLsb' 0 8 = (colourOf s s.code).b)

/-- 10_state.md R36: `RES_OFF` is written by a successful `OFFSET` only, with a value below 2^48. -/
def Obligations.ResOffWrittenByOffsetOnly : Prop :=
  regIndex .resOff = 21 ∧ regWidth .resOff = 64 ∧ regAccess .resOff = .readOnly ∧ State.reset.resOff = 0#64 ∧
  ∀ (w : BitVec 32) (s t : State), runCommand w s = .next t →
    (w ≠ encode .offset ∨ t.flag .err = true → t.resOff = s.resOff) ∧
    (w = encode .offset → t.flag .err = false →
      t.resOff.toNat = s.blockSize.toNat * (s.coordH.toNat * s.gridV.toNat + s.coordV.toNat) ∧ t.resOff.toNat < 2 ^ 48)

/-- 10_state.md R37: `OUT_W` and `OUT_H` are written by every `RENDER` that does not raise `Illegal`, failed ones too, and
by nothing else; they are at most 524280. -/
def Obligations.OutDimsWrittenByLegalRenderOnly : Prop :=
  regIndex .outW = 22 ∧ regIndex .outH = 23 ∧ regWidth .outW = 32 ∧ regWidth .outH = 32 ∧
  regAccess .outW = .readOnly ∧ regAccess .outH = .readOnly ∧ State.reset.outW = 0#32 ∧ State.reset.outH = 0#32 ∧
  ∀ (w : BitVec 32) (s t : State), runCommand w s = .next t →
    (w ≠ encode .render ∨ t.errKind = 4#8 → t.outW = s.outW ∧ t.outH = s.outH) ∧
    (w = encode .render → t.errKind ≠ 4#8 →
      t.outW.toNat = 8 * s.sizeH.toNat ∧ t.outH.toNat = 8 * s.sizeV.toNat ∧
      t.outW.toNat ≤ 524280 ∧ t.outH.toNat ≤ 524280)

/-- The memory frame of the operations that do not render, and the register frame of `BLK` (30_encoding.md R77,
60_exceptions.md R126): `RESOLVE`, `OFFSET` and `DECODE` leave every byte of the four spaces, `RESOLVE`, `OFFSET` and an
`Illegal` leave `BLK`, and no operation writes a byte of an input buffer. -/
def Obligations.OutputsFrame : Prop :=
  ∀ (i : Instr) (s t : State), exec i s = .next t →
    (i ≠ .render → ∀ sp a, t.byteAt sp a = s.byteAt sp a) ∧
    (t.errKind = 4#8 → t.blk = s.blk ∧ t.freeCount = s.freeCount ∧ ∀ sp a, t.byteAt sp a = s.byteAt sp a) ∧
    (i = .resolve ∨ i = .offset → t.blk = s.blk ∧ t.freeCount = s.freeCount) ∧
    ∀ a, t.byteAt .lut a = s.byteAt .lut a ∧ t.byteAt .map a = s.byteAt .map a

/-- 10_state.md R17: `GRID_H` is a 16-bit RW register, 0 after reset, which no operation reads: changing it changes no
outcome. -/
def Obligations.GridHIsNeverRead : Prop :=
  regIndex .gridH = 1 ∧ regWidth .gridH = 16 ∧ regAccess .gridH = .readWrite ∧ State.reset.gridH = 0#16 ∧
  ∀ (i : Instr) (s t : State) (x : BitVec 16), exec i s = .next t →
    exec i { s with gridH := x } = .next { t with gridH := x }

/-- The result of `RESOLVE`, `OFFSET` and a successful `DECODE` is idempotent: the same command again changes nothing
(20_memory.md R54). -/
def Obligations.RepeatedCommandChangesNothing : Prop :=
  ∀ (i : Instr) (s t : State), i ≠ .render → exec i s = .next t → (i = .decode → t.flag .err = false) →
    exec i t = .next t

/-- 70_reset_and_hazards.md R144: no step, a hardware reset included, changes a launch parameter or a constant. -/
def Obligations.LaunchParametersNeverChange : Prop :=
  ∀ s t : State, step s = .next t →
    t.lut = s.lut ∧ t.map = s.map ∧ readReg t .lutLen = readReg s .lutLen ∧ readReg t .mapLen = readReg s .mapLen ∧
    (∀ a, t.byteAt .lut a = s.byteAt .lut a) ∧ (∀ a, t.byteAt .map a = s.byteAt .map a) ∧
    readReg t .tileDim = 0x0808#64

/-- The invariant holds right after reset, and after a launch with any input buffers. -/
def Obligations.InvariantHoldsAfterReset : Prop :=
  Inv State.reset ∧ ∀ (lut map : Buffer) (script : List HostEvent), Inv (State.launch lut map script)

/-- Every step keeps the invariant, from every state that meets it: the status word and the error registers agree, the
results stay in their ranges, a valid grid is complete, and the output spaces stay in canonical form (10_state.md R30,
R31, R36, R37; 30_encoding.md R80; 44_area_renderer.md R113). -/
def Obligations.StepKeepsInvariant : Prop := ∀ s t : State, Inv s → step s = .next t → Inv t
end

