-- ==== Sys2Proof/Laws/Bits.lean ====
section
/-! SUPPORT. Facts about the bit vectors of the model: little-endian assembly, colour channels, grey levels, and the
flags of a status word. -/

namespace Sys2Proof.Machine

theorem append_byte_toNat (hi lo : Byte) : (hi ++ lo).toNat = hi.toNat * 256 + lo.toNat := by
  rw [BitVec.toNat_append, Nat.shiftLeft_eq]
  have := lo.isLt
  have h := Nat.two_pow_add_eq_or_of_lt this hi.toNat
  rw [Nat.mul_comm]
  simpa [Nat.mul_comm] using h.symm

theorem leValue_two (b0 b1 : Byte) : BitVec.ofNat 16 (leValue [b0, b1]) = b1 ++ b0 := by
  apply BitVec.eq_of_toNat_eq
  rw [append_byte_toNat]
  have := b0.isLt
  have := b1.isLt
  simp only [leValue, BitVec.toNat_ofNat]
  omega

theorem leValue_three_low (b0 b1 b2 : Byte) :
    (BitVec.ofNat 24 (leValue [b0, b1, b2])).extractLsb' 0 16 = b1 ++ b0 := by
  apply BitVec.eq_of_toNat_eq
  rw [append_byte_toNat]
  have := b0.isLt
  have := b1.isLt
  have := b2.isLt
  simp only [leValue, BitVec.extractLsb'_toNat, BitVec.toNat_ofNat]
  omega

theorem leValue_three_high (b0 b1 b2 : Byte) :
    (BitVec.ofNat 24 (leValue [b0, b1, b2])).extractLsb' 16 8 = b2 := by
  apply BitVec.eq_of_toNat_eq
  have := b0.isLt
  have := b1.isLt
  have := b2.isLt
  simp only [leValue, BitVec.extractLsb'_toNat, BitVec.toNat_ofNat, Nat.shiftRight_eq_div_pow]
  omega

/-- A channel shifted left by 3 is its five bits above three zero bits (30_encoding.md R80). -/
theorem channel8_eq_append : ∀ c : BitVec 5, channel8 c = c ++ 0#3 := by decide

theorem expand555_eq (w : BitVec 16) : expand555 w = rgbOfWord w := by
  simp [expand555, rgbOfWord, channel8_eq_append, red5, green5, blue5]

theorem setFlag_err_done (st : BitVec 32) : setFlag (setFlag st .err true) .done true = st ||| 3#32 := by
  simp only [setFlag, Flag.bit, if_true]
  rw [BitVec.or_assoc]
  rfl

theorem setFlag_ok_done (st : BitVec 32) : setFlag (setFlag st .err false) .done true = (st ||| 1#32) &&& ~~~2#32 := by
  simp only [setFlag, Flag.bit, if_true, Bool.false_eq_true, if_false]
  ext i hi
  simp only [BitVec.getElem_or, BitVec.getElem_and, BitVec.getElem_not]
  rcases i with _ | _ | i
  · simp
  · simp
  · simp

/-- Which flag a status word shows after one flag is written. -/
theorem getFlag_setFlag (st : BitVec 32) (f g : Flag) (b : Bool) :
    getFlag (setFlag st f b) g = if g = f then b else getFlag st g := by
  cases f <;> cases g <;> cases b <;> simp [getFlag, setFlag, Flag.bit]

end Sys2Proof.Machine
end

