-- ==== Sys2Proof/Laws/Memory.lean ====
section
/-! SUPPORT. Reading after writing and after erasing, and the canonical form, of an output space. -/

namespace Sys2Proof.Machine

theorem Memory.read_write (m : Memory) (a c : Nat) (b : Byte) :
    Memory.read (Memory.write m a b) c = if c = a then some b else Memory.read m c := by
  induction m with
  | nil => simp [Memory.write, Memory.read, eq_comm]
  | cons e m ih =>
    obtain ⟨x, v⟩ := e
    simp only [Memory.write]
    split_ifs with h1 h2 h3 h4 <;> simp_all [Memory.read, eq_comm]

theorem Memory.read_write_same (m : Memory) (a : Nat) (b : Byte) :
    Memory.read (Memory.write m a b) a = some b := by simp [Memory.read_write]

theorem Memory.read_write_other (m : Memory) {a c : Nat} (b : Byte) (h : c ≠ a) :
    Memory.read (Memory.write m a b) c = Memory.read m c := by simp [Memory.read_write, h]

theorem Memory.read_eraseBelow (m : Memory) (n c : Nat) :
    Memory.read (Memory.eraseBelow m n) c = if c < n then none else Memory.read m c := by
  induction m with
  | nil => simp [Memory.eraseBelow, Memory.read]
  | cons e m ih =>
    obtain ⟨x, v⟩ := e
    have ih' : Memory.read (m.filter fun d => decide (n ≤ d.1)) c = if c < n then none else Memory.read m c := ih
    by_cases hx : n ≤ x
    · simp only [Memory.eraseBelow, List.filter_cons, hx, decide_true, if_true, Memory.read, ih']
      split_ifs <;> first | rfl | omega
    · simp only [Memory.eraseBelow, List.filter_cons, hx, decide_false, Memory.read, Bool.false_eq_true, if_false, ih']
      split_ifs <;> first | rfl | omega

theorem Memory.risingFrom_mono {m : Memory} {lo lo' : Nat} (h : lo' ≤ lo) (hm : Memory.risingFrom lo m = true) :
    Memory.risingFrom lo' m = true := by
  cases m with
  | nil => rfl
  | cons e m =>
    simp only [Memory.risingFrom, Bool.and_eq_true, decide_eq_true_eq] at hm ⊢
    exact ⟨by omega, hm.2⟩

theorem Memory.risingFrom_write {m : Memory} {lo a : Nat} (b : Byte) (h : lo ≤ a)
    (hm : Memory.risingFrom lo m = true) : Memory.risingFrom lo (Memory.write m a b) = true := by
  induction m generalizing lo with
  | nil => simpa [Memory.write, Memory.risingFrom] using h
  | cons e m ih =>
    obtain ⟨x, v⟩ := e
    simp only [Memory.risingFrom, Bool.and_eq_true, decide_eq_true_eq] at hm
    simp only [Memory.write]
    split_ifs with h1 h2
    · simp [Memory.risingFrom, hm, h]; omega
    · subst h2
      simpa [Memory.risingFrom, h] using hm.2
    · simp only [Memory.risingFrom, Bool.and_eq_true, decide_eq_true_eq]
      exact ⟨hm.1, ih (by omega) hm.2⟩

/-- A write keeps the canonical form. -/
theorem Memory.wf_write {m : Memory} (a : Nat) (b : Byte) (hm : Memory.wf m = true) :
    Memory.wf (Memory.write m a b) = true := Memory.risingFrom_write b (Nat.zero_le a) hm

theorem Memory.risingFrom_eraseBelow {m : Memory} {lo : Nat} (n : Nat) (hm : Memory.risingFrom lo m = true) :
    Memory.risingFrom lo (Memory.eraseBelow m n) = true := by
  induction m generalizing lo with
  | nil => rfl
  | cons e m ih =>
    obtain ⟨x, v⟩ := e
    simp only [Memory.risingFrom, Bool.and_eq_true, decide_eq_true_eq] at hm
    by_cases hx : n ≤ x
    · simp only [Memory.eraseBelow, List.filter_cons, hx, decide_true, if_true, Memory.risingFrom, Bool.and_eq_true,
        decide_eq_true_eq]
      exact ⟨hm.1, ih hm.2⟩
    · simp only [Memory.eraseBelow, List.filter_cons, hx, decide_false, Bool.false_eq_true, if_false]
      exact ih (Memory.risingFrom_mono (by omega) hm.2)

/-- Erasing keeps the canonical form. -/
theorem Memory.wf_eraseBelow {m : Memory} (n : Nat) (hm : Memory.wf m = true) :
    Memory.wf (Memory.eraseBelow m n) = true := Memory.risingFrom_eraseBelow n hm

/-- The output spaces of the machine after reset are in canonical form. -/
theorem Memory.wf_reset : Memory.wf State.reset.cgrid = true ∧ Memory.wf State.reset.hgrid = true := ⟨rfl, rfl⟩

theorem Memory.read_none_of_risingFrom {m : Memory} {lo a : Nat} (hm : Memory.risingFrom lo m = true) (h : a < lo) :
    Memory.read m a = none := by
  induction m generalizing lo with
  | nil => rfl
  | cons e m ih =>
    obtain ⟨x, v⟩ := e
    simp only [Memory.risingFrom, Bool.and_eq_true, decide_eq_true_eq] at hm
    simp only [Memory.read]
    rw [if_neg (by omega)]
    exact ih hm.2 (by omega)

/-- Two output spaces in canonical form that read alike everywhere are equal. -/
theorem Memory.ext_of_wf {m m' : Memory} {lo : Nat} (hm : Memory.risingFrom lo m = true)
    (hm' : Memory.risingFrom lo m' = true) (h : ∀ a, Memory.read m a = Memory.read m' a) : m = m' := by
  induction m generalizing lo m' with
  | nil =>
    cases m' with
    | nil => rfl
    | cons e m' => have := h e.1; simp [Memory.read] at this
  | cons e m ih =>
    obtain ⟨x, v⟩ := e
    cases m' with
    | nil => have := h x; simp [Memory.read] at this
    | cons e' m' =>
      obtain ⟨x', v'⟩ := e'
      simp only [Memory.risingFrom, Bool.and_eq_true, decide_eq_true_eq] at hm hm'
      have hx := h x
      have hx' := h x'
      simp only [Memory.read, if_true] at hx hx'
      have hnx : ¬ x < x' := fun hlt => by
        rw [if_neg (by omega), Memory.read_none_of_risingFrom hm'.2 (by omega)] at hx
        cases hx
      have hnx' : ¬ x' < x := fun hlt => by
        rw [if_neg (by omega), Memory.read_none_of_risingFrom hm.2 (by omega)] at hx'
        cases hx'
      have hxx : x = x' := by omega
      subst hxx
      have hv : v = v' := by simpa using hx
      subst hv
      congr 1
      refine ih hm.2 hm'.2 fun a => ?_
      by_cases ha : a = x
      · subst ha
        rw [Memory.read_none_of_risingFrom hm.2 (by omega), Memory.read_none_of_risingFrom hm'.2 (by omega)]
      · have := h a
        simpa only [Memory.read, if_neg (Ne.symm ha)] using this

end Sys2Proof.Machine
end

