-- ==== Sys2Proof/Laws/Units.lean ====
section
/-! SUPPORT. One lemma per function of the leaf units that says all it can answer: reads of an input buffer, the look-up,
the block offset and the decoding of a block. -/

namespace Sys2Proof.Machine

/-- A read inside the buffer answers its bytes, assembled little-endian. -/
theorem memRead_inside {b : Buffer} {addr n : Nat} (h : addr + n ≤ b.len.toNat) :
    memRead b addr n = .ok (leValue ((List.range n).map fun k => b.byteAt (addr + k))) := by
  simp [memRead, h]

theorem memRead_outside {b : Buffer} {addr n : Nat} (h : ¬ addr + n ≤ b.len.toNat) :
    memRead b addr n = .error (.outOfBounds addr n b.len.toNat) := by simp [memRead, h]

/-- `lut_lookup` never reads outside `LUT`: it answers the colour, or fails. -/
theorem lutLookup_eq (s : State) (code : BitVec 16) :
    lutLookup s code = .ok (if CodeResolves s code then some (colourOf s code) else none) := by
  have hoff : lutOffset code = 2 * code.toNat := rfl
  by_cases h : CodeResolves s code
  · have h' : ¬ s.lut.len.toNat < 2 * code.toNat + 2 := by unfold CodeResolves at h; omega
    have hr := memRead_inside (b := s.lut) (addr := 2 * code.toNat) (n := 2) h
    simp only [lutLookup, hoff, Config.lutEntryBytes, if_neg h', hr, if_pos h]
    simp [List.range_succ, colourOf, lutWord, leValue_two, expand555_eq]
  · have h' : s.lut.len.toNat < 2 * code.toNat + 2 := by unfold CodeResolves at h; omega
    simp [lutLookup, hoff, h', h]

/-- `block_offset`: it fails exactly when V is not below the grid height. -/
theorem blockOffset_eq (h v bs gv : Nat) :
    blockOffset h v bs gv = if v < gv then some (bs * (h * gv + v)) else none := by
  unfold blockOffset
  split_ifs <;> first | rfl | omega

theorem raster_eq : raster = (List.range 64).map fun i => (i % 8, i / 8) := by decide

theorem raster_length : raster.length = 64 := by decide

theorem cellOff_raster (i : Nat) : cellOff (i % 8) (i / 8) = 4 + 3 * i := by
  simp only [cellOff, Config.hdrBytes, Config.cellBytes, Config.tileW]
  omega

/-- What decoding the cells `l` of a record gives: the first code that does not resolve, or all the cells. -/
def cellsResult (s : State) (base : Nat) (l : List Nat) : DecodeResult :=
  match l.find? fun i => decide (¬ CodeResolves s (cellCode s base i)) with
  | some k => .unresolved (cellCode s base k)
  | none => .pixels (l.map (cellPixel s base))

theorem decodeCells_eq (s : State) (base : Nat) (l : List Nat) (hl : ∀ i ∈ l, i < 64)
    (hb : base + 196 ≤ s.map.len.toNat) :
    decodeCells s base (l.map fun i => (i % 8, i / 8)) = .ok (cellsResult s base l) := by
  induction l with
  | nil => rfl
  | cons i l ih =>
    have hi := hl i (by simp)
    have ih := ih fun j hj => hl j (by simp [hj])
    have hr := memRead_inside (b := s.map) (addr := base + (4 + 3 * i)) (n := 3) (by omega)
    have hc : (cellUnpack (BitVec.ofNat 24 (leValue
        ((List.range 3).map fun k => s.map.byteAt (base + (4 + 3 * i) + k))))) =
        (cellCode s base i, cellHeight s base i) := by
      simp [cellUnpack, List.range_succ, leValue_three_low, leValue_three_high, cellCode, cellHeight, Nat.add_assoc]
    simp only [List.map_cons, decodeCells, cellOff_raster, Config.cellBytes, hr, hc, lutLookup_eq, ih]
    by_cases h : CodeResolves s (cellCode s base i)
    · simp only [cellsResult, List.find?_cons, h, not_true_eq_false, decide_false, if_true]
      cases hf : l.find? fun i => decide (¬ CodeResolves s (cellCode s base i)) <;> simp [cellPixel]
    · simp only [cellsResult, List.find?_cons, h, not_false_eq_true, decide_true, if_false]

/-- `decode_block` of a record inside `MAP` never reads outside a buffer. -/
theorem decodeBlock_eq {s : State} {base : Nat} (hb : base + 196 ≤ s.map.len.toNat) :
    decodeBlock s base = .ok (cellsResult s base (List.range 64)) := by
  rw [decodeBlock, raster_eq]
  exact decodeCells_eq s base _ (by simp) hb

/-- `decode_block` when every code of the record resolves. -/
theorem decodeBlock_pixels {s : State} {base : Nat} (hb : base + 196 ≤ s.map.len.toNat) (h : CellsResolve s base 64) :
    decodeBlock s base = .ok (.pixels ((List.range 64).map (cellPixel s base))) := by
  rw [decodeBlock_eq hb, cellsResult]
  have : (List.range 64).find? (fun i => decide (¬ CodeResolves s (cellCode s base i))) = none := by
    simp only [List.find?_eq_none, List.mem_range, decide_eq_true_eq, not_not]
    exact h
  rw [this]

/-- `decode_block` when cell `k` is the first whose code does not resolve. -/
theorem decodeBlock_unresolved {s : State} {base k : Nat} (hb : base + 196 ≤ s.map.len.toNat) (hk : k < 64)
    (h : CellsResolve s base k) (hn : ¬ CodeResolves s (cellCode s base k)) :
    decodeBlock s base = .ok (.unresolved (cellCode s base k)) := by
  rw [decodeBlock_eq hb, cellsResult]
  have : (List.range 64).find? (fun i => decide (¬ CodeResolves s (cellCode s base i))) = some k := by
    rw [List.find?_range_eq_some]
    refine ⟨by simpa using hn, List.mem_range.2 hk, fun j hj => ?_⟩
    simpa using h j hj
  rw [this]

/-- A record inside `MAP` decodes to its cells, or has a first cell whose code does not resolve. -/
theorem decodeBlock_cases {s : State} {base : Nat} (hb : base + 196 ≤ s.map.len.toNat) :
    (CellsResolve s base 64 ∧ decodeBlock s base = .ok (.pixels ((List.range 64).map (cellPixel s base)))) ∨
      ∃ k, k < 64 ∧ CellsResolve s base k ∧ ¬ CodeResolves s (cellCode s base k) ∧
        decodeBlock s base = .ok (.unresolved (cellCode s base k)) := by
  by_cases h : CellsResolve s base 64
  · exact .inl ⟨h, decodeBlock_pixels hb h⟩
  · have hex : ∃ k, k < 64 ∧ ¬ CodeResolves s (cellCode s base k) := by
      by_contra hc
      exact h fun i hi => by_contra fun hn => hc ⟨i, hi, hn⟩
    obtain ⟨hk, hn⟩ := Nat.find_spec hex
    have hmin : CellsResolve s base (Nat.find hex) := fun i hi => by
      have := Nat.find_min hex hi
      by_contra hc
      exact this ⟨by omega, hc⟩
    exact .inr ⟨_, hk, hmin, hn, decodeBlock_unresolved hb hk hmin hn⟩

end Sys2Proof.Machine
end

