-- ==== Sys2Proof/Laws/Render.lean ====
section
/-! SUPPORT. What the loop of `RENDER` does to the output spaces: which byte of which block's cell each offset of the
grids holds afterwards, which offsets are left alone, and how the loop ends. -/

namespace Sys2Proof.Machine

/-- The byte of a pixel that stands at offset `k` of its three bytes in `CGRID` (30_encoding.md R73). -/
def Rgb.channel (c : Rgb) (k : Nat) : Byte := if k = 0 then c.r else if k = 1 then c.g else c.b

theorem placePixel_colour (px : Pixel) {x y w : Nat} (hx : x < w) (g : Grids) (a : Nat) :
    Memory.read (placePixel px x y w g).c a =
      if a / 3 % w = x ∧ a / 3 / w = y then some (px.rgb.channel (a % 3)) else Memory.read g.c a := by
  have key : (a / 3 % w = x ∧ a / 3 / w = y) ↔ a / 3 = y * w + x := by
    constructor
    · rintro ⟨h1, h2⟩
      have := Nat.div_add_mod (a / 3) w
      rw [h1, h2] at this
      rw [← this, Nat.mul_comm]
    · intro h
      have hw : 0 < w := by omega
      rw [h]
      constructor
      · rw [Nat.mul_comm, Nat.mul_add_mod, Nat.mod_eq_of_lt hx]
      · rw [Nat.mul_comm, Nat.mul_add_div hw, Nat.div_eq_of_lt hx, Nat.add_zero]
  simp only [key, placePixel, colourOffset, Memory.read_write, Rgb.channel]
  generalize y * w + x = o
  split_ifs <;> first | rfl | (exfalso; omega)

theorem placePixel_height (px : Pixel) {x y w : Nat} (hx : x < w) (g : Grids) (a : Nat) :
    Memory.read (placePixel px x y w g).h a =
      if a % w = x ∧ a / w = y then some (grey px.height) else Memory.read g.h a := by
  have key : (a % w = x ∧ a / w = y) ↔ a = y * w + x := by
    constructor
    · rintro ⟨h1, h2⟩
      have := Nat.div_add_mod a w
      rw [h1, h2] at this
      rw [← this, Nat.mul_comm]
    · intro h
      have hw : 0 < w := by omega
      rw [h]
      constructor
      · rw [Nat.mul_comm, Nat.mul_add_mod, Nat.mod_eq_of_lt hx]
      · rw [Nat.mul_comm, Nat.mul_add_div hw, Nat.div_eq_of_lt hx, Nat.add_zero]
  simp only [key, placePixel, heightOffset, Memory.read_write]

/-- The loop of `place_tile` over cells of a tile given by `f`, at cell indices `l`. -/
theorem placeCells_colour (f : Nat → Pixel) {x0 y0 w : Nat} (hw : x0 + 8 ≤ w) (l : List Nat) (hl : ∀ i ∈ l, i < 64)
    (g : Grids) (a : Nat) :
    Memory.read (placeCells x0 y0 w (l.map fun i => ((i % 8, i / 8), f i)) g).c a =
      if x0 ≤ a / 3 % w ∧ y0 ≤ a / 3 / w ∧ a / 3 % w < x0 + 8 ∧ 8 * (a / 3 / w - y0) + (a / 3 % w - x0) ∈ l then
        some ((f (8 * (a / 3 / w - y0) + (a / 3 % w - x0))).rgb.channel (a % 3))
      else Memory.read g.c a := by
  induction l generalizing g with
  | nil => simp [placeCells]
  | cons i l ih =>
    have hi := hl i (by simp)
    rw [List.map_cons, placeCells, ih fun j hj => hl j (by simp [hj])]
    rw [placePixel_colour (f i) (by omega)]
    generalize a / 3 % w = x
    generalize a / 3 / w = y
    by_cases h : x0 ≤ x ∧ y0 ≤ y ∧ x < x0 + 8 ∧ 8 * (y - y0) + (x - x0) ∈ l
    · rw [if_pos h, if_pos ⟨h.1, h.2.1, h.2.2.1, List.mem_cons_of_mem _ h.2.2.2⟩]
    · rw [if_neg h]
      by_cases h' : x = x0 + i % 8 ∧ y = y0 + i / 8
      · have he : 8 * (y - y0) + (x - x0) = i := by omega
        rw [if_pos h', if_pos ⟨by omega, by omega, by omega, by simp [he]⟩, he]
      · rw [if_neg h', if_neg]
        rintro ⟨h1, h2, h3, h4⟩
        rcases List.mem_cons.1 h4 with h5 | h5
        · exact h' (by omega)
        · exact h ⟨h1, h2, h3, h5⟩

theorem placeCells_height (f : Nat → Pixel) {x0 y0 w : Nat} (hw : x0 + 8 ≤ w) (l : List Nat) (hl : ∀ i ∈ l, i < 64)
    (g : Grids) (a : Nat) :
    Memory.read (placeCells x0 y0 w (l.map fun i => ((i % 8, i / 8), f i)) g).h a =
      if x0 ≤ a % w ∧ y0 ≤ a / w ∧ a % w < x0 + 8 ∧ 8 * (a / w - y0) + (a % w - x0) ∈ l then
        some (grey (f (8 * (a / w - y0) + (a % w - x0))).height)
      else Memory.read g.h a := by
  induction l generalizing g with
  | nil => simp [placeCells]
  | cons i l ih =>
    have hi := hl i (by simp)
    rw [List.map_cons, placeCells, ih fun j hj => hl j (by simp [hj])]
    rw [placePixel_height (f i) (by omega)]
    generalize a % w = x
    generalize a / w = y
    by_cases h : x0 ≤ x ∧ y0 ≤ y ∧ x < x0 + 8 ∧ 8 * (y - y0) + (x - x0) ∈ l
    · rw [if_pos h, if_pos ⟨h.1, h.2.1, h.2.2.1, List.mem_cons_of_mem _ h.2.2.2⟩]
    · rw [if_neg h]
      by_cases h' : x = x0 + i % 8 ∧ y = y0 + i / 8
      · have he : 8 * (y - y0) + (x - x0) = i := by omega
        rw [if_pos h', if_pos ⟨by omega, by omega, by omega, by simp [he]⟩, he]
      · rw [if_neg h', if_neg]
        rintro ⟨h1, h2, h3, h4⟩
        rcases List.mem_cons.1 h4 with h5 | h5
        · exact h' (by omega)
        · exact h ⟨h1, h2, h3, h5⟩

theorem placeTile_range (f : Nat → Pixel) (x0 y0 w : Nat) (g : Grids) :
    placeTile ((List.range 64).map f) x0 y0 w g =
      placeCells x0 y0 w ((List.range 64).map fun i => ((i % 8, i / 8), f i)) g := by
  rw [placeTile, raster_eq, List.zip_map']

/-- `place_tile` (44_area_renderer.md R111): the bytes of `CGRID` it writes, and no other. -/
theorem placeTile_colour (f : Nat → Pixel) {x0 y0 w : Nat} (hw : x0 + 8 ≤ w) (g : Grids) (a : Nat) :
    Memory.read (placeTile ((List.range 64).map f) x0 y0 w g).c a =
      if x0 ≤ a / 3 % w ∧ y0 ≤ a / 3 / w ∧ a / 3 % w < x0 + 8 ∧ a / 3 / w < y0 + 8 then
        some ((f (8 * (a / 3 / w - y0) + (a / 3 % w - x0))).rgb.channel (a % 3))
      else Memory.read g.c a := by
  rw [placeTile_range, placeCells_colour f hw _ (by simp)]
  simp only [List.mem_range]
  refine if_congr ?_ rfl rfl
  constructor <;> (rintro ⟨h1, h2, h3, h4⟩; refine ⟨h1, h2, h3, ?_⟩; omega)

/-- `place_tile` (44_area_renderer.md R111): the bytes of `HGRID` it writes, and no other. -/
theorem placeTile_height (f : Nat → Pixel) {x0 y0 w : Nat} (hw : x0 + 8 ≤ w) (g : Grids) (a : Nat) :
    Memory.read (placeTile ((List.range 64).map f) x0 y0 w g).h a =
      if x0 ≤ a % w ∧ y0 ≤ a / w ∧ a % w < x0 + 8 ∧ a / w < y0 + 8 then
        some (grey (f (8 * (a / w - y0) + (a % w - x0))).height)
      else Memory.read g.h a := by
  rw [placeTile_range, placeCells_height f hw _ (by simp)]
  simp only [List.mem_range]
  refine if_congr ?_ rfl rfl
  constructor <;> (rintro ⟨h1, h2, h3, h4⟩; refine ⟨h1, h2, h3, ?_⟩; omega)

theorem placeCells_wf (x0 y0 w : Nat) (l : List ((Nat × Nat) × Pixel)) (g : Grids)
    (hc : Memory.wf g.c = true) (hh : Memory.wf g.h = true) :
    Memory.wf (placeCells x0 y0 w l g).c = true ∧ Memory.wf (placeCells x0 y0 w l g).h = true := by
  induction l generalizing g with
  | nil => exact ⟨hc, hh⟩
  | cons e l ih =>
    exact ih _ (Memory.wf_write _ _ (Memory.wf_write _ _ (Memory.wf_write _ _ hc))) (Memory.wf_write _ _ hh)

/-- The loop of `RENDER` ends, with both output spaces in canonical form if they were. -/
theorem renderBlocks_total (s : State) (p : Area) (l : List (Nat × Nat)) (g : Grids) :
    ∃ e, renderBlocks s p l g = .ok e ∧
      ∀ g', e = .done g' → Memory.wf g.c = true → Memory.wf g.h = true →
        Memory.wf g'.c = true ∧ Memory.wf g'.h = true := by
  induction l generalizing g with
  | nil => exact ⟨_, rfl, fun g' h hc hh => by cases h; exact ⟨hc, hh⟩⟩
  | cons b l ih =>
    obtain ⟨rh, rv⟩ := b
    simp only [renderBlocks]
    cases ho : blockOffset rh rv p.bs p.gv with
    | none => exact ⟨_, rfl, fun g' h => by cases h⟩
    | some o =>
      simp only
      by_cases hm : s.map.len.toNat < o + Config.blockBytes
      · rw [if_pos hm]
        exact ⟨_, rfl, fun g' h => by cases h⟩
      · rw [if_neg hm]
        have hm' : o + 196 ≤ s.map.len.toNat := by simp only [Config.blockBytes] at hm; omega
        rcases decodeBlock_cases hm' with ⟨-, hd⟩ | ⟨k, -, -, -, hd⟩
        · rw [hd]
          obtain ⟨e, he, hw⟩ := ih (placeTile ((List.range 64).map (cellPixel s o)) (Config.tileW * (rh - p.sh))
            (Config.tileH * (rv - p.sv)) p.pixelW g)
          refine ⟨e, he, fun g' hg hc hh => ?_⟩
          have := placeCells_wf (Config.tileW * (rh - p.sh)) (Config.tileH * (rv - p.sv)) p.pixelW
            (raster.zip ((List.range 64).map (cellPixel s o))) g hc hh
          exact hw g' hg this.1 this.2
        · rw [hd]
          exact ⟨_, rfl, fun g' h => by cases h⟩

/-- A block passes the checks of the area's registers (44_area_renderer.md R110). -/
abbrev Area.BlockPasses (s : State) (p : Area) (b : Nat × Nat) : Prop :=
  b.2 < p.gv ∧ p.bs * (b.1 * p.gv + b.2) + 196 ≤ s.map.len.toNat ∧
    CellsResolve s (p.bs * (b.1 * p.gv + b.2)) 64

/-- What the grids of a `RENDER` over the blocks `l` hold at each offset. -/
def renderedColour (s : State) (p : Area) (l : List (Nat × Nat)) (g : Grids) (a : Nat) : Option Byte :=
  let x := a / 3 % p.pixelW
  let y := a / 3 / p.pixelW
  if (p.sh + x / 8, p.sv + y / 8) ∈ l then
    some ((cellPixel s (p.bs * ((p.sh + x / 8) * p.gv + (p.sv + y / 8))) (8 * (y % 8) + x % 8)).rgb.channel (a % 3))
  else Memory.read g.c a

/-- What the grids of a `RENDER` over the blocks `l` hold at each offset. -/
def renderedHeight (s : State) (p : Area) (l : List (Nat × Nat)) (g : Grids) (a : Nat) : Option Byte :=
  let x := a % p.pixelW
  let y := a / p.pixelW
  if (p.sh + x / 8, p.sv + y / 8) ∈ l then
    some (grey (cellPixel s (p.bs * ((p.sh + x / 8) * p.gv + (p.sv + y / 8))) (8 * (y % 8) + x % 8)).height)
  else Memory.read g.h a

/-- The loop of `RENDER` over blocks of the area that all pass: it is done, and this is what the grids hold. -/
theorem renderBlocks_done (s : State) (p : Area) (l : List (Nat × Nat)) (g : Grids)
    (hp : ∀ b ∈ l, Area.BlockPasses s p b) (hl : ∀ b ∈ l, p.sh ≤ b.1 ∧ b.1 < p.sh + p.w ∧ p.sv ≤ b.2) :
    ∃ g', renderBlocks s p l g = .ok (.done g') ∧
      (∀ a, Memory.read g'.c a = renderedColour s p l g a) ∧ ∀ a, Memory.read g'.h a = renderedHeight s p l g a := by
  induction l generalizing g with
  | nil => exact ⟨g, rfl, fun a => by simp [renderedColour], fun a => by simp [renderedHeight]⟩
  | cons b l ih =>
    obtain ⟨rh, rv⟩ := b
    obtain ⟨h1, h2, h3⟩ := hp (rh, rv) (by simp)
    obtain ⟨k1, k2, k3⟩ := hl (rh, rv) (by simp)
    simp only at h1 h2 h3 k1 k2 k3
    have hm : ¬ s.map.len.toNat < p.bs * (rh * p.gv + rv) + Config.blockBytes := by
      simp only [Config.blockBytes]; omega
    have hw : 8 * (rh - p.sh) + 8 ≤ p.pixelW := by simp only [Area.pixelW, Config.tileW]; omega
    obtain ⟨g', he, hc, hh⟩ := ih (placeTile ((List.range 64).map (cellPixel s (p.bs * (rh * p.gv + rv))))
      (8 * (rh - p.sh)) (8 * (rv - p.sv)) p.pixelW g) (fun b hb => hp b (by simp [hb])) (fun b hb => hl b (by simp [hb]))
    refine ⟨g', ?_, fun a => ?_, fun a => ?_⟩
    · simp only [renderBlocks, blockOffset_eq, if_pos h1, if_neg hm, decodeBlock_pixels h2 h3]
      exact he
    · rw [hc a]
      simp only [renderedColour, placeTile_colour _ hw]
      generalize a / 3 % p.pixelW = x
      generalize a / 3 / p.pixelW = y
      by_cases hin : (p.sh + x / 8, p.sv + y / 8) ∈ l
      · rw [if_pos hin, if_pos (List.mem_cons_of_mem _ hin)]
      · rw [if_neg hin]
        by_cases hx : p.sh + x / 8 = rh ∧ p.sv + y / 8 = rv
        · rw [if_pos ⟨by omega, by omega, by omega, by omega⟩, if_pos (by simp [hx.1, hx.2]), hx.1, hx.2,
            show 8 * (y - 8 * (rv - p.sv)) + (x - 8 * (rh - p.sh)) = 8 * (y % 8) + x % 8 by omega]
        · rw [if_neg (by rintro ⟨q1, q2, q3, q4⟩; exact hx (by omega)), if_neg]
          intro hmem
          rcases List.mem_cons.1 hmem with q | q
          · exact hx (by simpa using q)
          · exact hin q
    · rw [hh a]
      simp only [renderedHeight, placeTile_height _ hw]
      generalize a % p.pixelW = x
      generalize a / p.pixelW = y
      by_cases hin : (p.sh + x / 8, p.sv + y / 8) ∈ l
      · rw [if_pos hin, if_pos (List.mem_cons_of_mem _ hin)]
      · rw [if_neg hin]
        by_cases hx : p.sh + x / 8 = rh ∧ p.sv + y / 8 = rv
        · rw [if_pos ⟨by omega, by omega, by omega, by omega⟩, if_pos (by simp [hx.1, hx.2]), hx.1, hx.2,
            show 8 * (y - 8 * (rv - p.sv)) + (x - 8 * (rh - p.sh)) = 8 * (y % 8) + x % 8 by omega]
        · rw [if_neg (by rintro ⟨q1, q2, q3, q4⟩; exact hx (by omega)), if_neg]
          intro hmem
          rcases List.mem_cons.1 hmem with q | q
          · exact hx (by simpa using q)
          · exact hin q

/-- How the loop ends at a block that fails its checks, in the order of 44_area_renderer.md R110. -/
inductive BlockFails (s : State) (p : Area) (b : Nat × Nat) : ErrorInfo → Prop where
  | row (h : p.gv ≤ b.2) : BlockFails s p b { kind := .outOfRange, h := b.1, v := b.2 }
  | record (h : b.2 < p.gv) (hm : s.map.len.toNat < p.bs * (b.1 * p.gv + b.2) + 196) :
    BlockFails s p b { kind := .truncatedBuffer, h := b.1, v := b.2, off := p.bs * (b.1 * p.gv + b.2) }
  | code (k : Nat) (h : b.2 < p.gv) (hm : p.bs * (b.1 * p.gv + b.2) + 196 ≤ s.map.len.toNat) (hk : k < 64)
    (hr : CellsResolve s (p.bs * (b.1 * p.gv + b.2)) k)
    (hn : ¬ CodeResolves s (cellCode s (p.bs * (b.1 * p.gv + b.2)) k)) :
    BlockFails s p b { kind := .malformedBlock, h := b.1, v := b.2, off := p.bs * (b.1 * p.gv + b.2),
                       code := cellCode s (p.bs * (b.1 * p.gv + b.2)) k }

/-- The loop of `RENDER` fails at the first block that fails. -/
theorem renderBlocks_failed (s : State) (p : Area) (l : List (Nat × Nat)) (b : Nat × Nat) (l' : List (Nat × Nat))
    (g : Grids) (e : ErrorInfo) (hp : ∀ b ∈ l, Area.BlockPasses s p b) (hb : BlockFails s p b e) :
    renderBlocks s p (l ++ b :: l') g = .ok (.failed e) := by
  induction l generalizing g with
  | nil =>
    obtain ⟨rh, rv⟩ := b
    simp only [List.nil_append, renderBlocks, blockOffset_eq]
    cases hb with
    | row h => rw [if_neg (by simpa using h)]
    | record h hm =>
      simp only at h hm
      simp only [if_pos h, Config.blockBytes, if_pos hm]
    | code k h hm hk hr hn =>
      simp only at h hm hr hn
      simp only [if_pos h, Config.blockBytes, if_neg (Nat.not_lt.2 hm), decodeBlock_unresolved hm hk hr hn]
  | cons c l ih =>
    obtain ⟨rh, rv⟩ := c
    obtain ⟨h1, h2, h3⟩ := hp (rh, rv) (by simp)
    simp only at h1 h2 h3
    have hm : ¬ s.map.len.toNat < p.bs * (rh * p.gv + rv) + Config.blockBytes := by
      simp only [Config.blockBytes]; omega
    simp only [List.cons_append, renderBlocks, blockOffset_eq, if_pos h1, if_neg hm, decodeBlock_pixels h2 h3]
    exact ih _ fun b hb => hp b (by simp [hb])

/-- Every block passes, or some block is the first that fails. -/
theorem blocks_cases (s : State) (p : Area) (l : List (Nat × Nat)) :
    (∀ b ∈ l, Area.BlockPasses s p b) ∨
      ∃ l1 b l2 e, l = l1 ++ b :: l2 ∧ (∀ b ∈ l1, Area.BlockPasses s p b) ∧ BlockFails s p b e := by
  induction l with
  | nil => exact .inl (by simp)
  | cons b l ih =>
    by_cases hb : Area.BlockPasses s p b
    · rcases ih with h | ⟨l1, c, l2, e, rfl, h1, h2⟩
      · exact .inl fun c hc => by
          rcases List.mem_cons.1 hc with rfl | hc
          · exact hb
          · exact h c hc
      · exact .inr ⟨b :: l1, c, l2, e, rfl, fun c hc => by
          rcases List.mem_cons.1 hc with rfl | hc
          · exact hb
          · exact h1 c hc, h2⟩
    · refine .inr ⟨[], b, l, ?_⟩
      by_cases h1 : b.2 < p.gv
      · by_cases h2 : p.bs * (b.1 * p.gv + b.2) + 196 ≤ s.map.len.toNat
        · rcases decodeBlock_cases h2 with ⟨h3, -⟩ | ⟨k, hk, hr, hn, -⟩
          · exact absurd ⟨h1, h2, h3⟩ hb
          · exact ⟨_, rfl, by simp, .code k h1 h2 hk hr hn⟩
        · exact ⟨_, rfl, by simp, .record h1 (by omega)⟩
      · exact ⟨_, rfl, by simp, .row (by omega)⟩

/-- A block of the area (44_area_renderer.md R109). -/
theorem Area.mem_blocks (p : Area) (b : Nat × Nat) :
    b ∈ p.blocks ↔ p.sh ≤ b.1 ∧ b.1 < p.sh + p.w ∧ p.sv ≤ b.2 ∧ b.2 < p.sv + p.ht := by
  obtain ⟨rh, rv⟩ := b
  simp only [Area.blocks, List.mem_flatMap, List.mem_map, List.mem_range, Prod.mk.injEq]
  constructor
  · rintro ⟨j, hj, i, hi, rfl, rfl⟩
    omega
  · rintro ⟨h1, h2, h3, h4⟩
    exact ⟨rv - p.sv, by omega, rh - p.sh, by omega, by omega, by omega⟩

/-- The traversal order split at the block in column `i`, row `j` of the area. -/
theorem Area.blocks_split (p : Area) {i j : Nat} (hi : i < p.w) (hj : j < p.ht) :
    ∃ l1 l2, p.blocks = l1 ++ (p.sh + i, p.sv + j) :: l2 ∧
      ∀ b ∈ l1, (∃ j' i', j' < j ∧ i' < p.w ∧ b = (p.sh + i', p.sv + j')) ∨
        ∃ i', i' < i ∧ b = (p.sh + i', p.sv + j) := by
  have hr : ∀ {k n : Nat}, k < n → List.range n = List.range k ++ k :: (List.range (n - k - 1)).map (k + 1 + ·) := by
    intro k n h
    have := List.range_add (n := k + 1) (m := n - k - 1)
    rw [show k + 1 + (n - k - 1) = n by omega] at this
    rw [this, List.range_succ, List.append_assoc]
    rfl
  let row := fun j' => (List.range p.w).map fun i' => (p.sh + i', p.sv + j')
  refine ⟨(List.range j).flatMap row ++ (List.range i).map (fun i' => (p.sh + i', p.sv + j)),
    (List.range (p.w - i - 1)).map (fun k => (p.sh + (i + 1 + k), p.sv + j)) ++
      ((List.range (p.ht - j - 1)).map (j + 1 + ·)).flatMap row, ?_, ?_⟩
  · have h1 : row j = (List.range i).map (fun i' => (p.sh + i', p.sv + j)) ++ (p.sh + i, p.sv + j) ::
        (List.range (p.w - i - 1)).map (fun k => (p.sh + (i + 1 + k), p.sv + j)) := by
      simp only [row]
      rw [hr hi, List.map_append, List.map_cons, List.map_map]
      rfl
    calc p.blocks = (List.range p.ht).flatMap row := rfl
      _ = _ := by rw [hr hj, List.flatMap_append, List.flatMap_cons, h1]; simp
  · intro b hb
    simp only [List.mem_append, List.mem_flatMap, List.mem_map, List.mem_range, row] at hb
    rcases hb with ⟨j', hj', i', hi', rfl⟩ | ⟨i', hi', rfl⟩
    · exact .inl ⟨j', i', hj', hi', rfl⟩
    · exact .inr ⟨i', hi', rfl⟩

end Sys2Proof.Machine
end

