-- ==== Sys2Proof/Laws/State.lean ====
section
/-! SUPPORT. One lemma per field and named update of the state, true by definition, so that no proof unfolds a record
update. -/

namespace Sys2Proof.Machine

variable (s : State)

@[simp] theorem withFlag_blockSize (f : Flag) (b : Bool) : (State.withFlag f b s).blockSize = s.blockSize := rfl
@[simp] theorem withFlag_gridH (f : Flag) (b : Bool) : (State.withFlag f b s).gridH = s.gridH := rfl
@[simp] theorem withFlag_gridV (f : Flag) (b : Bool) : (State.withFlag f b s).gridV = s.gridV := rfl
@[simp] theorem withFlag_startH (f : Flag) (b : Bool) : (State.withFlag f b s).startH = s.startH := rfl
@[simp] theorem withFlag_startV (f : Flag) (b : Bool) : (State.withFlag f b s).startV = s.startV := rfl
@[simp] theorem withFlag_sizeH (f : Flag) (b : Bool) : (State.withFlag f b s).sizeH = s.sizeH := rfl
@[simp] theorem withFlag_sizeV (f : Flag) (b : Bool) : (State.withFlag f b s).sizeV = s.sizeV := rfl
@[simp] theorem withFlag_code (f : Flag) (b : Bool) : (State.withFlag f b s).code = s.code := rfl
@[simp] theorem withFlag_coordH (f : Flag) (b : Bool) : (State.withFlag f b s).coordH = s.coordH := rfl
@[simp] theorem withFlag_coordV (f : Flag) (b : Bool) : (State.withFlag f b s).coordV = s.coordV := rfl
@[simp] theorem withFlag_srcOff (f : Flag) (b : Bool) : (State.withFlag f b s).srcOff = s.srcOff := rfl
@[simp] theorem withFlag_srcLen (f : Flag) (b : Bool) : (State.withFlag f b s).srcLen = s.srcLen := rfl
@[simp] theorem withFlag_cmd (f : Flag) (b : Bool) : (State.withFlag f b s).cmd = s.cmd := rfl
@[simp] theorem withFlag_status (f : Flag) (b : Bool) : (State.withFlag f b s).status = setFlag s.status f b := rfl
@[simp] theorem withFlag_errKind (f : Flag) (b : Bool) : (State.withFlag f b s).errKind = s.errKind := rfl
@[simp] theorem withFlag_errH (f : Flag) (b : Bool) : (State.withFlag f b s).errH = s.errH := rfl
@[simp] theorem withFlag_errV (f : Flag) (b : Bool) : (State.withFlag f b s).errV = s.errV := rfl
@[simp] theorem withFlag_errOff (f : Flag) (b : Bool) : (State.withFlag f b s).errOff = s.errOff := rfl
@[simp] theorem withFlag_errCode (f : Flag) (b : Bool) : (State.withFlag f b s).errCode = s.errCode := rfl
@[simp] theorem withFlag_resRgb (f : Flag) (b : Bool) : (State.withFlag f b s).resRgb = s.resRgb := rfl
@[simp] theorem withFlag_resOff (f : Flag) (b : Bool) : (State.withFlag f b s).resOff = s.resOff := rfl
@[simp] theorem withFlag_outW (f : Flag) (b : Bool) : (State.withFlag f b s).outW = s.outW := rfl
@[simp] theorem withFlag_outH (f : Flag) (b : Bool) : (State.withFlag f b s).outH = s.outH := rfl
@[simp] theorem withFlag_lut (f : Flag) (b : Bool) : (State.withFlag f b s).lut = s.lut := rfl
@[simp] theorem withFlag_map (f : Flag) (b : Bool) : (State.withFlag f b s).map = s.map := rfl
@[simp] theorem withFlag_blk (f : Flag) (b : Bool) : (State.withFlag f b s).blk = s.blk := rfl
@[simp] theorem withFlag_cgrid (f : Flag) (b : Bool) : (State.withFlag f b s).cgrid = s.cgrid := rfl
@[simp] theorem withFlag_hgrid (f : Flag) (b : Bool) : (State.withFlag f b s).hgrid = s.hgrid := rfl
@[simp] theorem withFlag_pending (f : Flag) (b : Bool) : (State.withFlag f b s).pending = s.pending := rfl
@[simp] theorem withFlag_answers (f : Flag) (b : Bool) : (State.withFlag f b s).answers = s.answers := rfl
@[simp] theorem withFlag_freeCount (f : Flag) (b : Bool) : (State.withFlag f b s).freeCount = s.freeCount := rfl

@[simp] theorem raiseError_blockSize (e : ErrorInfo) : (raiseError e s).blockSize = s.blockSize := rfl
@[simp] theorem raiseError_gridH (e : ErrorInfo) : (raiseError e s).gridH = s.gridH := rfl
@[simp] theorem raiseError_gridV (e : ErrorInfo) : (raiseError e s).gridV = s.gridV := rfl
@[simp] theorem raiseError_startH (e : ErrorInfo) : (raiseError e s).startH = s.startH := rfl
@[simp] theorem raiseError_startV (e : ErrorInfo) : (raiseError e s).startV = s.startV := rfl
@[simp] theorem raiseError_sizeH (e : ErrorInfo) : (raiseError e s).sizeH = s.sizeH := rfl
@[simp] theorem raiseError_sizeV (e : ErrorInfo) : (raiseError e s).sizeV = s.sizeV := rfl
@[simp] theorem raiseError_code (e : ErrorInfo) : (raiseError e s).code = s.code := rfl
@[simp] theorem raiseError_coordH (e : ErrorInfo) : (raiseError e s).coordH = s.coordH := rfl
@[simp] theorem raiseError_coordV (e : ErrorInfo) : (raiseError e s).coordV = s.coordV := rfl
@[simp] theorem raiseError_srcOff (e : ErrorInfo) : (raiseError e s).srcOff = s.srcOff := rfl
@[simp] theorem raiseError_srcLen (e : ErrorInfo) : (raiseError e s).srcLen = s.srcLen := rfl
@[simp] theorem raiseError_cmd (e : ErrorInfo) : (raiseError e s).cmd = s.cmd := rfl
@[simp] theorem raiseError_status (e : ErrorInfo) : (raiseError e s).status = setFlag (setFlag s.status .err true) .done true := rfl
@[simp] theorem raiseError_errKind (e : ErrorInfo) : (raiseError e s).errKind = e.kind.number := rfl
@[simp] theorem raiseError_errH (e : ErrorInfo) : (raiseError e s).errH = BitVec.ofNat 32 e.h := rfl
@[simp] theorem raiseError_errV (e : ErrorInfo) : (raiseError e s).errV = BitVec.ofNat 32 e.v := rfl
@[simp] theorem raiseError_errOff (e : ErrorInfo) : (raiseError e s).errOff = BitVec.ofNat 64 e.off := rfl
@[simp] theorem raiseError_errCode (e : ErrorInfo) : (raiseError e s).errCode = e.code := rfl
@[simp] theorem raiseError_resRgb (e : ErrorInfo) : (raiseError e s).resRgb = s.resRgb := rfl
@[simp] theorem raiseError_resOff (e : ErrorInfo) : (raiseError e s).resOff = s.resOff := rfl
@[simp] theorem raiseError_outW (e : ErrorInfo) : (raiseError e s).outW = s.outW := rfl
@[simp] theorem raiseError_outH (e : ErrorInfo) : (raiseError e s).outH = s.outH := rfl
@[simp] theorem raiseError_lut (e : ErrorInfo) : (raiseError e s).lut = s.lut := rfl
@[simp] theorem raiseError_map (e : ErrorInfo) : (raiseError e s).map = s.map := rfl
@[simp] theorem raiseError_blk (e : ErrorInfo) : (raiseError e s).blk = s.blk := rfl
@[simp] theorem raiseError_cgrid (e : ErrorInfo) : (raiseError e s).cgrid = s.cgrid := rfl
@[simp] theorem raiseError_hgrid (e : ErrorInfo) : (raiseError e s).hgrid = s.hgrid := rfl
@[simp] theorem raiseError_pending (e : ErrorInfo) : (raiseError e s).pending = s.pending := rfl
@[simp] theorem raiseError_answers (e : ErrorInfo) : (raiseError e s).answers = s.answers := rfl
@[simp] theorem raiseError_freeCount (e : ErrorInfo) : (raiseError e s).freeCount = s.freeCount := rfl

@[simp] theorem completeOk_blockSize : (completeOk s).blockSize = s.blockSize := rfl
@[simp] theorem completeOk_gridH : (completeOk s).gridH = s.gridH := rfl
@[simp] theorem completeOk_gridV : (completeOk s).gridV = s.gridV := rfl
@[simp] theorem completeOk_startH : (completeOk s).startH = s.startH := rfl
@[simp] theorem completeOk_startV : (completeOk s).startV = s.startV := rfl
@[simp] theorem completeOk_sizeH : (completeOk s).sizeH = s.sizeH := rfl
@[simp] theorem completeOk_sizeV : (completeOk s).sizeV = s.sizeV := rfl
@[simp] theorem completeOk_code : (completeOk s).code = s.code := rfl
@[simp] theorem completeOk_coordH : (completeOk s).coordH = s.coordH := rfl
@[simp] theorem completeOk_coordV : (completeOk s).coordV = s.coordV := rfl
@[simp] theorem completeOk_srcOff : (completeOk s).srcOff = s.srcOff := rfl
@[simp] theorem completeOk_srcLen : (completeOk s).srcLen = s.srcLen := rfl
@[simp] theorem completeOk_cmd : (completeOk s).cmd = s.cmd := rfl
@[simp] theorem completeOk_status : (completeOk s).status = setFlag (setFlag s.status .err false) .done true := rfl
@[simp] theorem completeOk_errKind : (completeOk s).errKind = 0#8 := rfl
@[simp] theorem completeOk_errH : (completeOk s).errH = 0#32 := rfl
@[simp] theorem completeOk_errV : (completeOk s).errV = 0#32 := rfl
@[simp] theorem completeOk_errOff : (completeOk s).errOff = 0#64 := rfl
@[simp] theorem completeOk_errCode : (completeOk s).errCode = 0#16 := rfl
@[simp] theorem completeOk_resRgb : (completeOk s).resRgb = s.resRgb := rfl
@[simp] theorem completeOk_resOff : (completeOk s).resOff = s.resOff := rfl
@[simp] theorem completeOk_outW : (completeOk s).outW = s.outW := rfl
@[simp] theorem completeOk_outH : (completeOk s).outH = s.outH := rfl
@[simp] theorem completeOk_lut : (completeOk s).lut = s.lut := rfl
@[simp] theorem completeOk_map : (completeOk s).map = s.map := rfl
@[simp] theorem completeOk_blk : (completeOk s).blk = s.blk := rfl
@[simp] theorem completeOk_cgrid : (completeOk s).cgrid = s.cgrid := rfl
@[simp] theorem completeOk_hgrid : (completeOk s).hgrid = s.hgrid := rfl
@[simp] theorem completeOk_pending : (completeOk s).pending = s.pending := rfl
@[simp] theorem completeOk_answers : (completeOk s).answers = s.answers := rfl
@[simp] theorem completeOk_freeCount : (completeOk s).freeCount = s.freeCount := rfl

@[simp] theorem scrambleBlk_blockSize : (scrambleBlk s).blockSize = s.blockSize := rfl
@[simp] theorem scrambleBlk_gridH : (scrambleBlk s).gridH = s.gridH := rfl
@[simp] theorem scrambleBlk_gridV : (scrambleBlk s).gridV = s.gridV := rfl
@[simp] theorem scrambleBlk_startH : (scrambleBlk s).startH = s.startH := rfl
@[simp] theorem scrambleBlk_startV : (scrambleBlk s).startV = s.startV := rfl
@[simp] theorem scrambleBlk_sizeH : (scrambleBlk s).sizeH = s.sizeH := rfl
@[simp] theorem scrambleBlk_sizeV : (scrambleBlk s).sizeV = s.sizeV := rfl
@[simp] theorem scrambleBlk_code : (scrambleBlk s).code = s.code := rfl
@[simp] theorem scrambleBlk_coordH : (scrambleBlk s).coordH = s.coordH := rfl
@[simp] theorem scrambleBlk_coordV : (scrambleBlk s).coordV = s.coordV := rfl
@[simp] theorem scrambleBlk_srcOff : (scrambleBlk s).srcOff = s.srcOff := rfl
@[simp] theorem scrambleBlk_srcLen : (scrambleBlk s).srcLen = s.srcLen := rfl
@[simp] theorem scrambleBlk_cmd : (scrambleBlk s).cmd = s.cmd := rfl
@[simp] theorem scrambleBlk_status : (scrambleBlk s).status = s.status := rfl
@[simp] theorem scrambleBlk_errKind : (scrambleBlk s).errKind = s.errKind := rfl
@[simp] theorem scrambleBlk_errH : (scrambleBlk s).errH = s.errH := rfl
@[simp] theorem scrambleBlk_errV : (scrambleBlk s).errV = s.errV := rfl
@[simp] theorem scrambleBlk_errOff : (scrambleBlk s).errOff = s.errOff := rfl
@[simp] theorem scrambleBlk_errCode : (scrambleBlk s).errCode = s.errCode := rfl
@[simp] theorem scrambleBlk_resRgb : (scrambleBlk s).resRgb = s.resRgb := rfl
@[simp] theorem scrambleBlk_resOff : (scrambleBlk s).resOff = s.resOff := rfl
@[simp] theorem scrambleBlk_outW : (scrambleBlk s).outW = s.outW := rfl
@[simp] theorem scrambleBlk_outH : (scrambleBlk s).outH = s.outH := rfl
@[simp] theorem scrambleBlk_lut : (scrambleBlk s).lut = s.lut := rfl
@[simp] theorem scrambleBlk_map : (scrambleBlk s).map = s.map := rfl
@[simp] theorem scrambleBlk_blk : (scrambleBlk s).blk = freeBlk s.freeCount := rfl
@[simp] theorem scrambleBlk_cgrid : (scrambleBlk s).cgrid = s.cgrid := rfl
@[simp] theorem scrambleBlk_hgrid : (scrambleBlk s).hgrid = s.hgrid := rfl
@[simp] theorem scrambleBlk_pending : (scrambleBlk s).pending = s.pending := rfl
@[simp] theorem scrambleBlk_answers : (scrambleBlk s).answers = s.answers := rfl
@[simp] theorem scrambleBlk_freeCount : (scrambleBlk s).freeCount = s.freeCount + 1 := rfl

@[simp] theorem invalidateBlk_blockSize : (invalidateBlk s).blockSize = s.blockSize := rfl
@[simp] theorem invalidateBlk_gridH : (invalidateBlk s).gridH = s.gridH := rfl
@[simp] theorem invalidateBlk_gridV : (invalidateBlk s).gridV = s.gridV := rfl
@[simp] theorem invalidateBlk_startH : (invalidateBlk s).startH = s.startH := rfl
@[simp] theorem invalidateBlk_startV : (invalidateBlk s).startV = s.startV := rfl
@[simp] theorem invalidateBlk_sizeH : (invalidateBlk s).sizeH = s.sizeH := rfl
@[simp] theorem invalidateBlk_sizeV : (invalidateBlk s).sizeV = s.sizeV := rfl
@[simp] theorem invalidateBlk_code : (invalidateBlk s).code = s.code := rfl
@[simp] theorem invalidateBlk_coordH : (invalidateBlk s).coordH = s.coordH := rfl
@[simp] theorem invalidateBlk_coordV : (invalidateBlk s).coordV = s.coordV := rfl
@[simp] theorem invalidateBlk_srcOff : (invalidateBlk s).srcOff = s.srcOff := rfl
@[simp] theorem invalidateBlk_srcLen : (invalidateBlk s).srcLen = s.srcLen := rfl
@[simp] theorem invalidateBlk_cmd : (invalidateBlk s).cmd = s.cmd := rfl
@[simp] theorem invalidateBlk_status : (invalidateBlk s).status = setFlag s.status .blkValid false := rfl
@[simp] theorem invalidateBlk_errKind : (invalidateBlk s).errKind = s.errKind := rfl
@[simp] theorem invalidateBlk_errH : (invalidateBlk s).errH = s.errH := rfl
@[simp] theorem invalidateBlk_errV : (invalidateBlk s).errV = s.errV := rfl
@[simp] theorem invalidateBlk_errOff : (invalidateBlk s).errOff = s.errOff := rfl
@[simp] theorem invalidateBlk_errCode : (invalidateBlk s).errCode = s.errCode := rfl
@[simp] theorem invalidateBlk_resRgb : (invalidateBlk s).resRgb = s.resRgb := rfl
@[simp] theorem invalidateBlk_resOff : (invalidateBlk s).resOff = s.resOff := rfl
@[simp] theorem invalidateBlk_outW : (invalidateBlk s).outW = s.outW := rfl
@[simp] theorem invalidateBlk_outH : (invalidateBlk s).outH = s.outH := rfl
@[simp] theorem invalidateBlk_lut : (invalidateBlk s).lut = s.lut := rfl
@[simp] theorem invalidateBlk_map : (invalidateBlk s).map = s.map := rfl
@[simp] theorem invalidateBlk_blk : (invalidateBlk s).blk = freeBlk s.freeCount := rfl
@[simp] theorem invalidateBlk_cgrid : (invalidateBlk s).cgrid = s.cgrid := rfl
@[simp] theorem invalidateBlk_hgrid : (invalidateBlk s).hgrid = s.hgrid := rfl
@[simp] theorem invalidateBlk_pending : (invalidateBlk s).pending = s.pending := rfl
@[simp] theorem invalidateBlk_answers : (invalidateBlk s).answers = s.answers := rfl
@[simp] theorem invalidateBlk_freeCount : (invalidateBlk s).freeCount = s.freeCount + 1 := rfl

@[simp] theorem discardGrids_blockSize (w ht : Nat) : (discardGrids w ht s).blockSize = s.blockSize := rfl
@[simp] theorem discardGrids_gridH (w ht : Nat) : (discardGrids w ht s).gridH = s.gridH := rfl
@[simp] theorem discardGrids_gridV (w ht : Nat) : (discardGrids w ht s).gridV = s.gridV := rfl
@[simp] theorem discardGrids_startH (w ht : Nat) : (discardGrids w ht s).startH = s.startH := rfl
@[simp] theorem discardGrids_startV (w ht : Nat) : (discardGrids w ht s).startV = s.startV := rfl
@[simp] theorem discardGrids_sizeH (w ht : Nat) : (discardGrids w ht s).sizeH = s.sizeH := rfl
@[simp] theorem discardGrids_sizeV (w ht : Nat) : (discardGrids w ht s).sizeV = s.sizeV := rfl
@[simp] theorem discardGrids_code (w ht : Nat) : (discardGrids w ht s).code = s.code := rfl
@[simp] theorem discardGrids_coordH (w ht : Nat) : (discardGrids w ht s).coordH = s.coordH := rfl
@[simp] theorem discardGrids_coordV (w ht : Nat) : (discardGrids w ht s).coordV = s.coordV := rfl
@[simp] theorem discardGrids_srcOff (w ht : Nat) : (discardGrids w ht s).srcOff = s.srcOff := rfl
@[simp] theorem discardGrids_srcLen (w ht : Nat) : (discardGrids w ht s).srcLen = s.srcLen := rfl
@[simp] theorem discardGrids_cmd (w ht : Nat) : (discardGrids w ht s).cmd = s.cmd := rfl
@[simp] theorem discardGrids_status (w ht : Nat) : (discardGrids w ht s).status = s.status := rfl
@[simp] theorem discardGrids_errKind (w ht : Nat) : (discardGrids w ht s).errKind = s.errKind := rfl
@[simp] theorem discardGrids_errH (w ht : Nat) : (discardGrids w ht s).errH = s.errH := rfl
@[simp] theorem discardGrids_errV (w ht : Nat) : (discardGrids w ht s).errV = s.errV := rfl
@[simp] theorem discardGrids_errOff (w ht : Nat) : (discardGrids w ht s).errOff = s.errOff := rfl
@[simp] theorem discardGrids_errCode (w ht : Nat) : (discardGrids w ht s).errCode = s.errCode := rfl
@[simp] theorem discardGrids_resRgb (w ht : Nat) : (discardGrids w ht s).resRgb = s.resRgb := rfl
@[simp] theorem discardGrids_resOff (w ht : Nat) : (discardGrids w ht s).resOff = s.resOff := rfl
@[simp] theorem discardGrids_outW (w ht : Nat) : (discardGrids w ht s).outW = s.outW := rfl
@[simp] theorem discardGrids_outH (w ht : Nat) : (discardGrids w ht s).outH = s.outH := rfl
@[simp] theorem discardGrids_lut (w ht : Nat) : (discardGrids w ht s).lut = s.lut := rfl
@[simp] theorem discardGrids_map (w ht : Nat) : (discardGrids w ht s).map = s.map := rfl
@[simp] theorem discardGrids_blk (w ht : Nat) : (discardGrids w ht s).blk = s.blk := rfl
@[simp] theorem discardGrids_cgrid (w ht : Nat) : (discardGrids w ht s).cgrid = Memory.eraseBelow s.cgrid (3 * w * ht) := rfl
@[simp] theorem discardGrids_hgrid (w ht : Nat) : (discardGrids w ht s).hgrid = Memory.eraseBelow s.hgrid (w * ht) := rfl
@[simp] theorem discardGrids_pending (w ht : Nat) : (discardGrids w ht s).pending = s.pending := rfl
@[simp] theorem discardGrids_answers (w ht : Nat) : (discardGrids w ht s).answers = s.answers := rfl
@[simp] theorem discardGrids_freeCount (w ht : Nat) : (discardGrids w ht s).freeCount = s.freeCount := rfl

@[simp] theorem loadBlk_blockSize (tile : List Pixel) : (loadBlk tile s).blockSize = s.blockSize := rfl
@[simp] theorem loadBlk_gridH (tile : List Pixel) : (loadBlk tile s).gridH = s.gridH := rfl
@[simp] theorem loadBlk_gridV (tile : List Pixel) : (loadBlk tile s).gridV = s.gridV := rfl
@[simp] theorem loadBlk_startH (tile : List Pixel) : (loadBlk tile s).startH = s.startH := rfl
@[simp] theorem loadBlk_startV (tile : List Pixel) : (loadBlk tile s).startV = s.startV := rfl
@[simp] theorem loadBlk_sizeH (tile : List Pixel) : (loadBlk tile s).sizeH = s.sizeH := rfl
@[simp] theorem loadBlk_sizeV (tile : List Pixel) : (loadBlk tile s).sizeV = s.sizeV := rfl
@[simp] theorem loadBlk_code (tile : List Pixel) : (loadBlk tile s).code = s.code := rfl
@[simp] theorem loadBlk_coordH (tile : List Pixel) : (loadBlk tile s).coordH = s.coordH := rfl
@[simp] theorem loadBlk_coordV (tile : List Pixel) : (loadBlk tile s).coordV = s.coordV := rfl
@[simp] theorem loadBlk_srcOff (tile : List Pixel) : (loadBlk tile s).srcOff = s.srcOff := rfl
@[simp] theorem loadBlk_srcLen (tile : List Pixel) : (loadBlk tile s).srcLen = s.srcLen := rfl
@[simp] theorem loadBlk_cmd (tile : List Pixel) : (loadBlk tile s).cmd = s.cmd := rfl
@[simp] theorem loadBlk_status (tile : List Pixel) : (loadBlk tile s).status = setFlag s.status .blkValid true := rfl
@[simp] theorem loadBlk_errKind (tile : List Pixel) : (loadBlk tile s).errKind = s.errKind := rfl
@[simp] theorem loadBlk_errH (tile : List Pixel) : (loadBlk tile s).errH = s.errH := rfl
@[simp] theorem loadBlk_errV (tile : List Pixel) : (loadBlk tile s).errV = s.errV := rfl
@[simp] theorem loadBlk_errOff (tile : List Pixel) : (loadBlk tile s).errOff = s.errOff := rfl
@[simp] theorem loadBlk_errCode (tile : List Pixel) : (loadBlk tile s).errCode = s.errCode := rfl
@[simp] theorem loadBlk_resRgb (tile : List Pixel) : (loadBlk tile s).resRgb = s.resRgb := rfl
@[simp] theorem loadBlk_resOff (tile : List Pixel) : (loadBlk tile s).resOff = s.resOff := rfl
@[simp] theorem loadBlk_outW (tile : List Pixel) : (loadBlk tile s).outW = s.outW := rfl
@[simp] theorem loadBlk_outH (tile : List Pixel) : (loadBlk tile s).outH = s.outH := rfl
@[simp] theorem loadBlk_lut (tile : List Pixel) : (loadBlk tile s).lut = s.lut := rfl
@[simp] theorem loadBlk_map (tile : List Pixel) : (loadBlk tile s).map = s.map := rfl
@[simp] theorem loadBlk_blk (tile : List Pixel) : (loadBlk tile s).blk = Vector.ofFn fun i : Fin 64 => (tile.map Pixel.entry).getD i.val 0#32 := rfl
@[simp] theorem loadBlk_cgrid (tile : List Pixel) : (loadBlk tile s).cgrid = s.cgrid := rfl
@[simp] theorem loadBlk_hgrid (tile : List Pixel) : (loadBlk tile s).hgrid = s.hgrid := rfl
@[simp] theorem loadBlk_pending (tile : List Pixel) : (loadBlk tile s).pending = s.pending := rfl
@[simp] theorem loadBlk_answers (tile : List Pixel) : (loadBlk tile s).answers = s.answers := rfl
@[simp] theorem loadBlk_freeCount (tile : List Pixel) : (loadBlk tile s).freeCount = s.freeCount := rfl

@[simp] theorem startRender_blockSize (p : Area) : (startRender p s).blockSize = s.blockSize := rfl
@[simp] theorem startRender_gridH (p : Area) : (startRender p s).gridH = s.gridH := rfl
@[simp] theorem startRender_gridV (p : Area) : (startRender p s).gridV = s.gridV := rfl
@[simp] theorem startRender_startH (p : Area) : (startRender p s).startH = s.startH := rfl
@[simp] theorem startRender_startV (p : Area) : (startRender p s).startV = s.startV := rfl
@[simp] theorem startRender_sizeH (p : Area) : (startRender p s).sizeH = s.sizeH := rfl
@[simp] theorem startRender_sizeV (p : Area) : (startRender p s).sizeV = s.sizeV := rfl
@[simp] theorem startRender_code (p : Area) : (startRender p s).code = s.code := rfl
@[simp] theorem startRender_coordH (p : Area) : (startRender p s).coordH = s.coordH := rfl
@[simp] theorem startRender_coordV (p : Area) : (startRender p s).coordV = s.coordV := rfl
@[simp] theorem startRender_srcOff (p : Area) : (startRender p s).srcOff = s.srcOff := rfl
@[simp] theorem startRender_srcLen (p : Area) : (startRender p s).srcLen = s.srcLen := rfl
@[simp] theorem startRender_cmd (p : Area) : (startRender p s).cmd = s.cmd := rfl
@[simp] theorem startRender_status (p : Area) : (startRender p s).status = setFlag (setFlag s.status .outValid false) .blkValid false := rfl
@[simp] theorem startRender_errKind (p : Area) : (startRender p s).errKind = s.errKind := rfl
@[simp] theorem startRender_errH (p : Area) : (startRender p s).errH = s.errH := rfl
@[simp] theorem startRender_errV (p : Area) : (startRender p s).errV = s.errV := rfl
@[simp] theorem startRender_errOff (p : Area) : (startRender p s).errOff = s.errOff := rfl
@[simp] theorem startRender_errCode (p : Area) : (startRender p s).errCode = s.errCode := rfl
@[simp] theorem startRender_resRgb (p : Area) : (startRender p s).resRgb = s.resRgb := rfl
@[simp] theorem startRender_resOff (p : Area) : (startRender p s).resOff = s.resOff := rfl
@[simp] theorem startRender_outW (p : Area) : (startRender p s).outW = BitVec.ofNat 32 p.pixelW := rfl
@[simp] theorem startRender_outH (p : Area) : (startRender p s).outH = BitVec.ofNat 32 p.pixelH := rfl
@[simp] theorem startRender_lut (p : Area) : (startRender p s).lut = s.lut := rfl
@[simp] theorem startRender_map (p : Area) : (startRender p s).map = s.map := rfl
@[simp] theorem startRender_blk (p : Area) : (startRender p s).blk = freeBlk s.freeCount := rfl
@[simp] theorem startRender_cgrid (p : Area) : (startRender p s).cgrid = s.cgrid := rfl
@[simp] theorem startRender_hgrid (p : Area) : (startRender p s).hgrid = s.hgrid := rfl
@[simp] theorem startRender_pending (p : Area) : (startRender p s).pending = s.pending := rfl
@[simp] theorem startRender_answers (p : Area) : (startRender p s).answers = s.answers := rfl
@[simp] theorem startRender_freeCount (p : Area) : (startRender p s).freeCount = s.freeCount + 1 := rfl

@[simp] theorem finishRender_blockSize (g : Grids) : (finishRender g s).blockSize = s.blockSize := rfl
@[simp] theorem finishRender_gridH (g : Grids) : (finishRender g s).gridH = s.gridH := rfl
@[simp] theorem finishRender_gridV (g : Grids) : (finishRender g s).gridV = s.gridV := rfl
@[simp] theorem finishRender_startH (g : Grids) : (finishRender g s).startH = s.startH := rfl
@[simp] theorem finishRender_startV (g : Grids) : (finishRender g s).startV = s.startV := rfl
@[simp] theorem finishRender_sizeH (g : Grids) : (finishRender g s).sizeH = s.sizeH := rfl
@[simp] theorem finishRender_sizeV (g : Grids) : (finishRender g s).sizeV = s.sizeV := rfl
@[simp] theorem finishRender_code (g : Grids) : (finishRender g s).code = s.code := rfl
@[simp] theorem finishRender_coordH (g : Grids) : (finishRender g s).coordH = s.coordH := rfl
@[simp] theorem finishRender_coordV (g : Grids) : (finishRender g s).coordV = s.coordV := rfl
@[simp] theorem finishRender_srcOff (g : Grids) : (finishRender g s).srcOff = s.srcOff := rfl
@[simp] theorem finishRender_srcLen (g : Grids) : (finishRender g s).srcLen = s.srcLen := rfl
@[simp] theorem finishRender_cmd (g : Grids) : (finishRender g s).cmd = s.cmd := rfl
@[simp] theorem finishRender_status (g : Grids) : (finishRender g s).status = setFlag (setFlag (setFlag s.status .outValid true) .err false) .done true := rfl
@[simp] theorem finishRender_errKind (g : Grids) : (finishRender g s).errKind = 0#8 := rfl
@[simp] theorem finishRender_errH (g : Grids) : (finishRender g s).errH = 0#32 := rfl
@[simp] theorem finishRender_errV (g : Grids) : (finishRender g s).errV = 0#32 := rfl
@[simp] theorem finishRender_errOff (g : Grids) : (finishRender g s).errOff = 0#64 := rfl
@[simp] theorem finishRender_errCode (g : Grids) : (finishRender g s).errCode = 0#16 := rfl
@[simp] theorem finishRender_resRgb (g : Grids) : (finishRender g s).resRgb = s.resRgb := rfl
@[simp] theorem finishRender_resOff (g : Grids) : (finishRender g s).resOff = s.resOff := rfl
@[simp] theorem finishRender_outW (g : Grids) : (finishRender g s).outW = s.outW := rfl
@[simp] theorem finishRender_outH (g : Grids) : (finishRender g s).outH = s.outH := rfl
@[simp] theorem finishRender_lut (g : Grids) : (finishRender g s).lut = s.lut := rfl
@[simp] theorem finishRender_map (g : Grids) : (finishRender g s).map = s.map := rfl
@[simp] theorem finishRender_blk (g : Grids) : (finishRender g s).blk = s.blk := rfl
@[simp] theorem finishRender_cgrid (g : Grids) : (finishRender g s).cgrid = g.c := rfl
@[simp] theorem finishRender_hgrid (g : Grids) : (finishRender g s).hgrid = g.h := rfl
@[simp] theorem finishRender_pending (g : Grids) : (finishRender g s).pending = s.pending := rfl
@[simp] theorem finishRender_answers (g : Grids) : (finishRender g s).answers = s.answers := rfl
@[simp] theorem finishRender_freeCount (g : Grids) : (finishRender g s).freeCount = s.freeCount := rfl

@[simp] theorem answer_blockSize (value : BusValue) : (answer value s).blockSize = s.blockSize := rfl
@[simp] theorem answer_gridH (value : BusValue) : (answer value s).gridH = s.gridH := rfl
@[simp] theorem answer_gridV (value : BusValue) : (answer value s).gridV = s.gridV := rfl
@[simp] theorem answer_startH (value : BusValue) : (answer value s).startH = s.startH := rfl
@[simp] theorem answer_startV (value : BusValue) : (answer value s).startV = s.startV := rfl
@[simp] theorem answer_sizeH (value : BusValue) : (answer value s).sizeH = s.sizeH := rfl
@[simp] theorem answer_sizeV (value : BusValue) : (answer value s).sizeV = s.sizeV := rfl
@[simp] theorem answer_code (value : BusValue) : (answer value s).code = s.code := rfl
@[simp] theorem answer_coordH (value : BusValue) : (answer value s).coordH = s.coordH := rfl
@[simp] theorem answer_coordV (value : BusValue) : (answer value s).coordV = s.coordV := rfl
@[simp] theorem answer_srcOff (value : BusValue) : (answer value s).srcOff = s.srcOff := rfl
@[simp] theorem answer_srcLen (value : BusValue) : (answer value s).srcLen = s.srcLen := rfl
@[simp] theorem answer_cmd (value : BusValue) : (answer value s).cmd = s.cmd := rfl
@[simp] theorem answer_status (value : BusValue) : (answer value s).status = s.status := rfl
@[simp] theorem answer_errKind (value : BusValue) : (answer value s).errKind = s.errKind := rfl
@[simp] theorem answer_errH (value : BusValue) : (answer value s).errH = s.errH := rfl
@[simp] theorem answer_errV (value : BusValue) : (answer value s).errV = s.errV := rfl
@[simp] theorem answer_errOff (value : BusValue) : (answer value s).errOff = s.errOff := rfl
@[simp] theorem answer_errCode (value : BusValue) : (answer value s).errCode = s.errCode := rfl
@[simp] theorem answer_resRgb (value : BusValue) : (answer value s).resRgb = s.resRgb := rfl
@[simp] theorem answer_resOff (value : BusValue) : (answer value s).resOff = s.resOff := rfl
@[simp] theorem answer_outW (value : BusValue) : (answer value s).outW = s.outW := rfl
@[simp] theorem answer_outH (value : BusValue) : (answer value s).outH = s.outH := rfl
@[simp] theorem answer_lut (value : BusValue) : (answer value s).lut = s.lut := rfl
@[simp] theorem answer_map (value : BusValue) : (answer value s).map = s.map := rfl
@[simp] theorem answer_blk (value : BusValue) : (answer value s).blk = s.blk := rfl
@[simp] theorem answer_cgrid (value : BusValue) : (answer value s).cgrid = s.cgrid := rfl
@[simp] theorem answer_hgrid (value : BusValue) : (answer value s).hgrid = s.hgrid := rfl
@[simp] theorem answer_pending (value : BusValue) : (answer value s).pending = s.pending := rfl
@[simp] theorem answer_answers (value : BusValue) : (answer value s).answers = value :: s.answers := rfl
@[simp] theorem answer_freeCount (value : BusValue) : (answer value s).freeCount = s.freeCount := rfl

@[simp] theorem drawFree_blockSize : (drawFree s).blockSize = s.blockSize := rfl
@[simp] theorem drawFree_gridH : (drawFree s).gridH = s.gridH := rfl
@[simp] theorem drawFree_gridV : (drawFree s).gridV = s.gridV := rfl
@[simp] theorem drawFree_startH : (drawFree s).startH = s.startH := rfl
@[simp] theorem drawFree_startV : (drawFree s).startV = s.startV := rfl
@[simp] theorem drawFree_sizeH : (drawFree s).sizeH = s.sizeH := rfl
@[simp] theorem drawFree_sizeV : (drawFree s).sizeV = s.sizeV := rfl
@[simp] theorem drawFree_code : (drawFree s).code = s.code := rfl
@[simp] theorem drawFree_coordH : (drawFree s).coordH = s.coordH := rfl
@[simp] theorem drawFree_coordV : (drawFree s).coordV = s.coordV := rfl
@[simp] theorem drawFree_srcOff : (drawFree s).srcOff = s.srcOff := rfl
@[simp] theorem drawFree_srcLen : (drawFree s).srcLen = s.srcLen := rfl
@[simp] theorem drawFree_cmd : (drawFree s).cmd = s.cmd := rfl
@[simp] theorem drawFree_status : (drawFree s).status = s.status := rfl
@[simp] theorem drawFree_errKind : (drawFree s).errKind = s.errKind := rfl
@[simp] theorem drawFree_errH : (drawFree s).errH = s.errH := rfl
@[simp] theorem drawFree_errV : (drawFree s).errV = s.errV := rfl
@[simp] theorem drawFree_errOff : (drawFree s).errOff = s.errOff := rfl
@[simp] theorem drawFree_errCode : (drawFree s).errCode = s.errCode := rfl
@[simp] theorem drawFree_resRgb : (drawFree s).resRgb = s.resRgb := rfl
@[simp] theorem drawFree_resOff : (drawFree s).resOff = s.resOff := rfl
@[simp] theorem drawFree_outW : (drawFree s).outW = s.outW := rfl
@[simp] theorem drawFree_outH : (drawFree s).outH = s.outH := rfl
@[simp] theorem drawFree_lut : (drawFree s).lut = s.lut := rfl
@[simp] theorem drawFree_map : (drawFree s).map = s.map := rfl
@[simp] theorem drawFree_blk : (drawFree s).blk = s.blk := rfl
@[simp] theorem drawFree_cgrid : (drawFree s).cgrid = s.cgrid := rfl
@[simp] theorem drawFree_hgrid : (drawFree s).hgrid = s.hgrid := rfl
@[simp] theorem drawFree_pending : (drawFree s).pending = s.pending := rfl
@[simp] theorem drawFree_answers : (drawFree s).answers = s.answers := rfl
@[simp] theorem drawFree_freeCount : (drawFree s).freeCount = s.freeCount + 1 := rfl

end Sys2Proof.Machine
end

