-- ==== Sys2Proof/Laws/Exec.lean ====
section
/-! SUPPORT. One lemma per operation that says every outcome it can have, in terms of the named updates of the state,
and one per host event. -/

namespace Sys2Proof.Machine

theorem exec_resolve (s : State) :
    exec .resolve s = .next (if CodeResolves s s.code then completeOk { s with resRgb := (colourOf s s.code).word }
      else raiseError { kind := .outOfRange, off := 2 * s.code.toNat, code := s.code } s) := by
  simp only [exec, execResolve, lutLookup_eq]
  split_ifs <;> rfl

theorem exec_offset (s : State) :
    exec .offset s = .next (if s.coordV.toNat < s.gridV.toNat then
        completeOk { s with
          resOff := BitVec.ofNat 64 (s.blockSize.toNat * (s.coordH.toNat * s.gridV.toNat + s.coordV.toNat)) }
      else raiseError { kind := .outOfRange, h := s.coordH.toNat, v := s.coordV.toNat } s) := by
  simp only [exec, execOffset, blockOffset_eq]
  split_ifs <;> rfl

/-- The tile that `DECODE` and `RENDER` decode from the record at `base`. -/
def tileAt (s : State) (base : Nat) : List Pixel := (List.range 64).map (cellPixel s base)

/-- Everything `DECODE` can do (43_block_decoder.md R98). -/
theorem exec_decode_cases (s : State) :
    (s.srcLen.toNat ≠ 196 ∧
      exec .decode s = .next (raiseError { kind := .malformedBlock, off := s.srcOff.toNat } (invalidateBlk s))) ∨
    (s.srcLen.toNat = 196 ∧ s.map.len.toNat < s.srcOff.toNat + 196 ∧
      exec .decode s = .next (raiseError { kind := .truncatedBuffer, off := s.srcOff.toNat } (invalidateBlk s))) ∨
    (s.srcLen.toNat = 196 ∧ s.srcOff.toNat + 196 ≤ s.map.len.toNat ∧ ∃ k, k < 64 ∧ CellsResolve s s.srcOff.toNat k ∧
      ¬ CodeResolves s (cellCode s s.srcOff.toNat k) ∧
      exec .decode s = .next (raiseError
        { kind := .malformedBlock, off := s.srcOff.toNat, code := cellCode s s.srcOff.toNat k } (invalidateBlk s))) ∨
    (s.srcLen.toNat = 196 ∧ s.srcOff.toNat + 196 ≤ s.map.len.toNat ∧ CellsResolve s s.srcOff.toNat 64 ∧
      exec .decode s = .next (completeOk (loadBlk (tileAt s s.srcOff.toNat) s))) := by
  by_cases h1 : s.srcLen.toNat = 196
  · by_cases h2 : s.map.len.toNat < s.srcOff.toNat + 196
    · exact .inr (.inl ⟨h1, h2, by simp [exec, execDecode, h1, h2]⟩)
    · have h2' : s.srcOff.toNat + 196 ≤ s.map.len.toNat := by omega
      rcases decodeBlock_cases h2' with ⟨h3, hd⟩ | ⟨k, hk, hr, hn, hd⟩
      · exact .inr (.inr (.inr ⟨h1, h2', h3, by simp [exec, execDecode, h1, h2, hd, tileAt]⟩))
      · exact .inr (.inr (.inl ⟨h1, h2', k, hk, hr, hn, by simp [exec, execDecode, h1, h2, hd]⟩))
  · exact .inl ⟨h1, by simp [exec, execDecode, h1]⟩

theorem State.area_illegal (s : State) : s.area.illegal = true ↔ ¬ AreaLegal s := by
  have hw : s.sizeH.toNat = 0 ↔ s.sizeH = 0#16 := by rw [← BitVec.toNat_inj]; simp
  have hh : s.sizeV.toNat = 0 ↔ s.sizeV = 0#16 := by rw [← BitVec.toNat_inj]; simp
  have hb : s.blockSize.toNat = 196 ↔ s.blockSize = 196#16 := by rw [← BitVec.toNat_inj]; simp
  simp only [Area.illegal, State.area, Config.blockBytes, Bool.or_eq_true, decide_eq_true_eq, hw, hh, hb, AreaLegal, ne_eq]
  tauto

/-- Everything `RENDER` can do (44_area_renderer.md R106). -/
theorem exec_render_cases (s : State) :
    (¬ AreaLegal s ∧ exec .render s = .next (raiseError { kind := .illegal } s)) ∨
    (AreaLegal s ∧ (∃ l1 b l2 e, s.area.blocks = l1 ++ b :: l2 ∧ (∀ c ∈ l1, Area.BlockPasses s s.area c) ∧
      BlockFails s s.area b e ∧
      exec .render s =
        .next (raiseError e (discardGrids s.area.pixelW s.area.pixelH (startRender s.area s))))) ∨
    (AreaLegal s ∧ (∀ b ∈ s.area.blocks, Area.BlockPasses s s.area b) ∧
      ∃ g, exec .render s = .next (finishRender g (startRender s.area s)) ∧
        (∀ a, Memory.read g.c a = renderedColour s s.area s.area.blocks { c := s.cgrid, h := s.hgrid } a) ∧
        (∀ a, Memory.read g.h a = renderedHeight s s.area s.area.blocks { c := s.cgrid, h := s.hgrid } a) ∧
        (Memory.wf s.cgrid = true → Memory.wf s.hgrid = true → Memory.wf g.c = true ∧ Memory.wf g.h = true)) := by
  by_cases hL : AreaLegal s
  · have hi : ¬ s.area.illegal = true := fun h => (s.area_illegal.1 h) hL
    rcases blocks_cases s s.area s.area.blocks with hp | ⟨l1, b, l2, e, hs, hp, hb⟩
    · obtain ⟨g, hg, hc, hh⟩ := renderBlocks_done s s.area s.area.blocks { c := s.cgrid, h := s.hgrid } hp
        fun b hb => by have := (s.area.mem_blocks b).1 hb; exact ⟨this.1, this.2.1, this.2.2.1⟩
      obtain ⟨e, he, hw⟩ := renderBlocks_total s s.area s.area.blocks { c := s.cgrid, h := s.hgrid }
      rw [hg] at he
      injection he with he
      exact .inr (.inr ⟨hL, hp, g, by simp only [exec, execRender, if_neg hi, hg], hc, hh, fun h1 h2 => hw g he.symm h1 h2⟩)
    · refine .inr (.inl ⟨hL, l1, b, l2, e, hs, hp, hb, ?_⟩)
      simp only [exec, execRender, if_neg hi]
      rw [hs, renderBlocks_failed s s.area l1 b l2 _ e hp hb]
  · exact .inl ⟨hL, by simp only [exec, execRender, if_pos (s.area_illegal.2 hL)]⟩

/-- The step on a state whose next host event is known. -/
theorem step_cons {s : State} {e : HostEvent} {rest : List HostEvent} (h : s.pending = e :: rest) :
    step s = serve e { s with pending := rest } := by simp [step, serveNext, h]

theorem step_nil {s : State} (h : s.pending = []) : step s = .next s := by simp [step, serveNext, h]

theorem runCommand_instr {w : BitVec 32} {i : Instr} (h : decodeCommand w = .instr i) (s : State) :
    runCommand w s = exec i s := by simp [runCommand, h]

theorem runCommand_reserved {w : BitVec 32} {why : ReservedWord} (h : decodeCommand w = .reserved why) (s : State) :
    runCommand w s = .next (raiseError { kind := .illegal } s) := by simp [runCommand, h]

/-- The write of a command word to `CMD` stores it and runs its command (10_state.md R29). -/
theorem regWrite_cmd (w : BitVec 32) (s : State) :
    regWrite 13 (w.setWidth 64) s = runCommand w { s with cmd := w } := by
  have h1 : regOfIndex 13 = some .cmd := rfl
  have h2 : valueFits .cmd (w.setWidth 64) = true := by
    have := w.isLt
    simp only [valueFits, regWidth, decide_eq_true_eq, BitVec.toNat_setWidth]
    omega
  have h3 : (w.setWidth 64).setWidth 32 = w := by
    apply BitVec.eq_of_toNat_eq
    have := w.isLt
    simp only [BitVec.toNat_setWidth]
    omega
  simp only [regWrite, h1, h2, if_true, storeReg, h3]

end Sys2Proof.Machine
end

