-- ==== Sys2Proof/Laws/PerInstr.lean ====
section
/-! SUPPORT. Facts about the operations as syntax, one lemma per operation. -/

namespace Sys2Proof.Laws

/-- The command word of an operation is well-formed, and its `OP` field is the operation's code (30_encoding.md R76,
R77). -/
def CommandWord.Statement (i : Instr) : Prop :=
  i.wf = true ∧ (RawCommand.ofWord (encode i)).op = i.op ∧ Instr.ofOp i.op = some i

theorem CommandWord.resolve : CommandWord.Statement .resolve := by unfold CommandWord.Statement; decide

theorem CommandWord.offset : CommandWord.Statement .offset := by unfold CommandWord.Statement; decide

theorem CommandWord.decode : CommandWord.Statement .decode := by unfold CommandWord.Statement; decide

theorem CommandWord.render : CommandWord.Statement .render := by unfold CommandWord.Statement; decide

end Sys2Proof.Laws
end

