-- ==== Sys2Proof/Tests/Slice0.lean ====
section
/-! SUPPORT. Tests against the worked examples of the spec, smoke tests of `WellFormed`, and for every obligation that
has hypotheses a theorem `wit_…` with a state and operands that meet them. -/

namespace Sys2Proof.Tests

open Sys2Proof Sys2Proof.Machine

/-- The next state of an outcome that has one. -/
def nextOf : Host.Outcome State Fault Refusal → Option State
  | .next t => some t
  | .fault _ => none
  | .refused _ => none

/-- An outcome whose next state passes a check is a next state that passes it. -/
theorem next_of {o : Host.Outcome State Fault Refusal} {p : State → Bool} (h : (nextOf o).any p = true) :
    ∃ t, o = .next t ∧ p t = true := by
  cases o with
  | next t => exact ⟨t, rfl, h⟩
  | fault _ => cases h
  | refused _ => cases h

/-! Fixtures, after 95_test_vectors.md section 0 -/

/-- LUT_ID (95_test_vectors.md section 0) at codes 0x001F, 0x1234 and 0x7C00, and 0 at every other code. -/
def lut : Buffer :=
  { len := 131072#64, cells := [(0x3E, 0x1F#8), (0x2468, 0x34#8), (0x2469, 0x12#8), (0xF801, 0x7C#8)] }

/-- One record of zero cells, but for cell (1, 0): code 0x001F, height -128 (95_test_vectors.md section 0, MAP4). -/
def oneBlock : Buffer := { len := 196#64, cells := [(7, 0x1F#8), (9, 0x80#8)] }

/-- Four records of zero cells for a grid of 2 by 2, but for cell (0, 0) of block (1, 0), at 392: code 0x001F, height
-1. -/
def fourBlocks : Buffer := { len := 784#64, cells := [(396, 0x1F#8), (398, 0xFF#8)] }

def start : State := State.launch lut oneBlock []

def decoding : State := { start with srcLen := 196#16 }

def rendering : State := { start with gridH := 1#16, gridV := 1#16, sizeH := 1#16, sizeV := 1#16 }

def rendering21 : State :=
  { State.launch lut fourBlocks [] with gridH := 2#16, gridV := 2#16, sizeH := 2#16, sizeV := 1#16 }

/-- A state in which the grids of a `RENDER` of 8 by 8 pixels are valid, with one byte of a specified value. -/
def shown : State := { start with status := 9#32, outW := 8#32, outH := 8#32, cgrid := [(0, 0xF8#8)] }

/-! Decoding: the words of 30_encoding.md R77 and of 95_test_vectors.md section 2.6, bit by bit -/

theorem test_decode_resolve : decodeCommand 0b00000000000000000000000000000001#32 = .instr .resolve := by decide
theorem test_decode_offset : decodeCommand 0b00000000000000000000000000000010#32 = .instr .offset := by decide
theorem test_decode_decode : decodeCommand 0b00000000000000000000000000000011#32 = .instr .decode := by decide
theorem test_decode_render : decodeCommand 0b00000000000000000000000000000100#32 = .instr .render := by decide
theorem test_decode_op_zero : decodeCommand 0x00000000#32 = .reserved (.opReserved 0x00#8) := by decide
theorem test_decode_op_high : decodeCommand 0x00000005#32 = .reserved (.opReserved 0x05#8) := by decide
theorem test_decode_zero_field : decodeCommand 0x00000101#32 = .reserved (.zeroFieldNotZero 0x000001#24) := by decide
theorem test_decode_table_word : decodeTableWord 32 4 = some .render ∧ decodeTableWord 32 7 = none := by decide
theorem test_encode : encode .decode = 0x00000003#32 := by decide

/-! WellFormed: one ill-formed term for each check -/

theorem test_wf_zeroOk : (RawCommand.ofWord 0x00000101#32).zeroOk = false := by decide
theorem test_wf_opOk : (RawCommand.ofWord 0x00000005#32).opOk = false ∧ (RawCommand.ofWord 0#32).opOk = false := by
  decide
theorem test_wf_word : (RawCommand.ofWord 0x80000004#32).wf = false ∧ Instr.render.wf = true := by decide
theorem test_wf_indexNamed : (HostEvent.regRead 26).indexNamed = false ∧ (HostEvent.regRead 127).indexNamed = true := by
  decide
theorem test_wf_valueOk : (HostEvent.regWrite 8 0x10000#64).valueOk = false ∧ (HostEvent.regWrite 8 0xFFFF#64).wf = true := by
  decide

/-! RESOLVE: 41_color_lut.md R87, 95_test_vectors.md sections 1 (T1) and 2.1 -/

theorem test_resolve_example :
    (nextOf (exec .resolve { start with code := 0x1234#16 })).map (fun t => (t.resRgb, t.status)) =
      some (0x2088A0#24, 1#32) := by decide

theorem test_resolve_last_entry_cut :
    (nextOf (exec .resolve { start with lut := { lut with len := 131071#64 }, code := 0xFFFF#16, resRgb := 7#24 })).map
      (fun t => (t.errKind, t.errOff, t.errCode, t.resRgb)) = some (1#8, 131070#64, 0xFFFF#16, 7#24) := by decide

/-! OFFSET: 42_block_index.md R93, 95_test_vectors.md section 2.2 -/

theorem test_offset_example :
    (nextOf (exec .offset { start with coordH := 895#16, coordV := 511#16, gridV := 512#16 })).map (·.resOff) =
      some 89915196#64 := by decide

theorem test_offset_row_out_of_range :
    (nextOf (exec .offset { start with coordV := 512#16, gridV := 512#16 })).map
      (fun t => (t.errKind, t.errH, t.errV, t.status)) = some (1#8, 0#32, 512#32, 3#32) := by decide

/-! DECODE: 95_test_vectors.md section 3, P2 (the exceptional cell stands at index 1, not 8), and section 2.4 -/

theorem test_decode_cell_position :
    (nextOf (exec .decode decoding)).map (fun t => (t.blk[0], t.blk[1], t.blk[8], t.status)) =
      some (0#32, 0x800000F8#32, 0#32, 5#32) := by decide +kernel

theorem test_decode_sum_does_not_wrap :
    (nextOf (exec .decode { decoding with srcOff := 0xFFFFFFFFFFFFFFFF#64 })).map
      (fun t => (t.errKind, t.errOff, t.status)) = some (3#8, 0xFFFFFFFFFFFFFFFF#64, 3#32) := by decide

/-! RENDER: 95_test_vectors.md section 3, P3 (pixel (1, 0) of the exceptional cell; the first pixel of block (1, 0),
which stands at offset 392, is pixel (8, 0)) -/

theorem test_render_cell_position :
    (nextOf (exec .render rendering)).map (fun t =>
      ([3, 4, 5, 24].map (Memory.read t.cgrid), [0, 1, 8, 64].map (Memory.read t.hgrid), t.outW, t.status)) =
      some ([some 0#8, some 0#8, some 0xF8#8, some 0#8], [some 128#8, some 0#8, some 128#8, none], 8#32, 9#32) := by
  decide +kernel

theorem test_render_block_order :
    (nextOf (exec .render rendering21)).map (fun t =>
      ([24, 25, 26].map (Memory.read t.cgrid), [7, 8, 9].map (Memory.read t.hgrid), t.outW, t.outH)) =
      some ([some 0#8, some 0#8, some 0xF8#8], [some 128#8, some 127#8, some 128#8], 16#32, 8#32) := by
  decide +kernel

/-! The host: 95_test_vectors.md section 2.6, and the placing of a table word -/

theorem test_write_read_only_ignored :
    (nextOf (step { start with pending := [.regWrite 3 0x1010#64] })).map (fun t => readReg t .tileDim) =
      some 0x0808#64 := by decide

theorem test_fetch_word_runs :
    (nextOf (step (State.reset.withFetchWord 32 2))).map (fun t => (t.cmd, t.errKind, t.pending)) =
      some (2#32, 1#8, []) := by decide

theorem test_script_render :
    scriptEvents [.grid 2 2, .renderArea 0 0 2 3, .comment, .rd .status] =
      [.regWrite 1 2#64, .regWrite 2 2#64, .regWrite 4 0#64, .regWrite 5 0#64, .regWrite 6 2#64, .regWrite 7 3#64,
        .regWrite 13 4#64, .regRead 14] := by decide

/-! Witnesses: states and operands that meet the hypotheses of the obligations, clause by clause -/

theorem wit_ReservedWordRaisesIllegal :
    (∀ w : BitVec 32, ({ start with pending := [.regWrite 13 (w.setWidth 64)] } : State).pending =
      .regWrite 13 (w.setWidth 64) :: []) ∧
    (0x00000101#32).extractLsb' 8 24 ≠ 0#24 ∧ (0x80000004#32).extractLsb' 8 24 ≠ 0#24 ∧
    (0x00000000#32).extractLsb' 0 8 = 0#8 ∧ 5 ≤ ((0x00000005#32).extractLsb' 0 8).toNat ∧
    5 ≤ ((0x000000FF#32).extractLsb' 0 8).toNat := ⟨fun _ => rfl, by decide⟩

theorem wit_StepRunsDecodedCommand :
    ∀ i ∈ [Instr.resolve, .offset, .decode, .render],
      ({ start with pending := [.regWrite 13 ((encode i).setWidth 64)] } : State).pending =
        .regWrite 13 ((encode i).setWidth 64) :: [] ∧ decodeCommand (encode i) = .instr i := by decide

theorem wit_CmdKeepsLastWord :
    ({ start with pending := [.hardwareReset] } : State).pending = .hardwareReset :: [] ∧
      ({ start with pending := [.regWrite 13 ((0xFFFFFFFF#32).setWidth 64)] } : State).pending =
        .regWrite 13 ((0xFFFFFFFF#32).setWidth 64) :: [] ∧
      ({ start with pending := [.regRead 13] } : State).pending = .regRead 13 :: [] ∧
      (HostEvent.regRead 13 ≠ .hardwareReset ∧ (∀ v, HostEvent.regRead 13 ≠ .regWrite 13 v) ∧
        ∃ t, step { start with pending := [.regRead 13] } = .next t) ∧
      ∃ t, exec .render start = .next t :=
  ⟨rfl, rfl, rfl, ⟨by decide, fun v => by simp, _, rfl⟩, _, rfl⟩

theorem wit_IdleHoldsState : State.reset.pending = [] := rfl

theorem wit_RegisterMapIsTheTable :
    (∀ n ∈ [0, 25], ∃ r, ({ start with pending := [.regRead n] } : State).pending = .regRead n :: [] ∧
      regOfIndex n = some r ∧ n < 26) ∧
    (({ start with pending := [.regWrite 11 (BitVec.allOnes 64)] } : State).pending =
        .regWrite 11 (BitVec.allOnes 64) :: [] ∧
      regOfIndex 11 = some .srcOff ∧ regAccess .srcOff = .readWrite ∧ (BitVec.allOnes 64).toNat < 2 ^ regWidth .srcOff) ∧
    ({ start with pending := [.regWrite 127 1#64] } : State).pending = .regWrite 127 1#64 :: [] ∧
      regOfIndex 127 = some (.blk 63) ∧ regAccess (.blk 63) = .readOnly ∧ (1#64).toNat < 2 ^ regWidth (.blk 63) := by
  refine ⟨?_, by decide, by decide⟩
  intro n hn
  simp only [List.mem_cons, List.not_mem_nil, or_false] at hn
  rcases hn with rfl | rfl <;> exact ⟨_, rfl, rfl, by decide⟩

theorem wit_RegReadAnswersValue :
    ({ start with status := 5#32, pending := [.regRead 127] } : State).pending = .regRead 127 :: [] ∧
      regOfIndex 127 = some (.blk 63) ∧ ({ start with status := 5#32 } : State).flag .blkValid = true := by decide

theorem wit_InvalidBlkReadAnswersFreeValue :
    ({ start with pending := [.regRead 64] } : State).pending = .regRead (64 + (0 : Fin 64).val) :: [] ∧
      start.flag .blkValid = false := by decide

theorem wit_GridReadAnswersByte :
    ({ shown with pending := [.gridRead .colour 0] } : State).pending = .gridRead .colour 0 :: [] ∧
      (shown.flag .outValid = true ∧ shown.byteAt (.grid .colour) 0 = some 0xF8#8) ∧
      start.flag .outValid = false ∧ shown.byteAt (.grid .colour) 192 = none := by decide

theorem wit_RegWriteStoresOnly :
    ({ start with pending := [.regWrite 0 0xFFFF#64] } : State).pending = .regWrite 0 0xFFFF#64 :: [] ∧
      regOfIndex 0 = some .blockSize ∧ regAccess .blockSize = .readWrite ∧ Reg.blockSize ≠ .cmd ∧
      (0xFFFF#64).toNat < 2 ^ regWidth .blockSize := by decide

theorem wit_RefusesExactlyOutsideAccesses :
    ∀ e ∈ [HostEvent.regRead 26, .regRead 63, .regRead 128, .regWrite 63 0#64, .regWrite 0 0x10000#64],
      ({ start with pending := [e] } : State).pending = e :: [] ∧ e.wf = false := by decide

theorem wit_WrittenOperandSeenByNextCommand :
    ({ start with pending := [.regWrite 8 0x1234#64, .regWrite 13 ((encode .resolve).setWidth 64)] } : State).pending =
        .regWrite 8 0x1234#64 :: .regWrite 13 ((encode .resolve).setWidth 64) :: [] ∧
      regOfIndex 8 = some .code ∧ regAccess .code = .readWrite ∧ Reg.code ≠ .cmd ∧
      (0x1234#64).toNat < 2 ^ regWidth .code := by decide

theorem wit_HardwareResetLeaves :
    ({ shown with pending := [.hardwareReset] } : State).pending = .hardwareReset :: [] := rfl

theorem wit_ResetValuesFailSafely : start.gridV = 0#16 ∧ start.srcLen = 0#16 ∧ 2 ≤ lut.len.toNat := by decide

theorem wit_BlockOffsetInjective :
    0 < 1 ∧ 0 < 2 ∧ (0, 1) ≠ (1, 0) ∧ blockOffset 0 1 1 2 = some 1 ∧ blockOffset 1 0 1 2 = some 2 ∧
      blockOffset 0 1 196 2 = some 196 ∧ blockOffset 1 0 196 2 = some 392 ∧ 195 < 196 := by decide

theorem wit_BlockOffsetColumnMajor :
    0 + 1 < 2 ∧ blockOffset 3 0 196 2 = some 1176 ∧ 0 < 2 ∧ blockOffset 3 (2 - 1) 196 2 = some 1372 := by decide

theorem wit_ResolveRule :
    CodeResolves { start with code := 65535#16 } 65535#16 ∧
      ¬ CodeResolves { start with lut := { lut with len := 131071#64 } } 65535#16 ∧
      ({ lut with len := 0#64 } : Buffer).len = 0#64 ∧ ({ lut with len := 1#64 } : Buffer).len = 1#64 ∧
      lut.len.toNat = 2 * 65536 ∧ ({ lut with len := 131071#64 } : Buffer).len.toNat = 2 * 65535 + 1 ∧
      lut.byteAt 0x2468 = 0x34#8 ∧ lut.byteAt 0x2469 = 0x12#8 ∧ lut.len = 131072#64 := by decide

theorem wit_ResolveReadsTwoBytes :
    ({ start with code := 0x1234#16 } : State).code = ({ shown with code := 0x1234#16 } : State).code ∧
      CodeResolves start 0x1234#16 ∧ CodeResolves shown 0x1234#16 ∧
      start.lut.byteAt (2 * 0x1234) = shown.lut.byteAt (2 * 0x1234) ∧
      start.lut.byteAt (2 * 0x1234 + 1) = shown.lut.byteAt (2 * 0x1234 + 1) := by decide

/-- The operands of the clauses of `OffsetRule`, in order. -/
theorem wit_OffsetRule :
    (let s : State := { start with coordV := 511#16, gridV := 512#16 }; s.coordV.toNat < s.gridV.toNat) ∧
      (let s : State := { start with coordV := 512#16, gridV := 512#16 }; s.gridV.toNat ≤ s.coordV.toNat) ∧
      start.gridV = 0#16 ∧
      (let s : State := { start with blockSize := 0#16, coordV := 2#16, gridV := 3#16 }
       s.blockSize = 0#16 ∧ s.coordV.toNat < s.gridV.toNat) ∧
      (let s : State := { start with coordH := 2#16, gridH := 2#16, gridV := 1#16 }
       s.gridH.toNat ≤ s.coordH.toNat ∧ s.coordV.toNat < s.gridV.toNat) ∧
      (let s : State := { start with coordH := 65535#16, coordV := 65534#16, gridV := 65535#16, blockSize := 65535#16 }
       s.coordH = 65535#16 ∧ s.coordV = 65534#16 ∧ s.gridV = 65535#16 ∧ s.blockSize = 65535#16) ∧
      (let s : State := { start with coordH := 895#16, coordV := 511#16, gridV := 512#16 }
       s.coordH = 895#16 ∧ s.coordV = 511#16 ∧ s.gridV = 512#16 ∧ s.blockSize = 196#16) := by decide

theorem wit_DecodeCompletes :
    decoding.srcLen = 196#16 ∧ decoding.srcOff.toNat + 196 ≤ decoding.map.len.toNat ∧
      CellsResolve decoding decoding.srcOff.toNat 64 := by decide +kernel

theorem wit_DecodeWrongLengthMalformed :
    ({ start with srcLen := 195#16 } : State).srcLen ≠ 196#16 ∧ ({ start with srcLen := 197#16 } : State).srcLen ≠ 196#16 := by
  decide

theorem wit_DecodeOutsideMapTruncated :
    let s : State := { decoding with srcOff := 1#64 }
    s.srcLen = 196#16 ∧ s.map.len.toNat < s.srcOff.toNat + 196 := by decide

/-- The first cells of the record need two bytes of `LUT`; cell 1 needs 64, and there are 62. -/
theorem wit_DecodeReportsFirstUnresolvedCode :
    let s : State := { decoding with lut := { lut with len := 62#64 } }
    s.srcLen = 196#16 ∧ s.srcOff.toNat + 196 ≤ s.map.len.toNat ∧ 1 < 64 ∧
      CellsResolve s s.srcOff.toNat 1 ∧ ¬ CodeResolves s (cellCode s s.srcOff.toNat 1) := by decide

theorem wit_DecodeIgnoresHeader :
    (∀ a, 0 + 4 ≤ a → a < 0 + 196 →
      ({ oneBlock with cells := (0, 0xDE#8) :: oneBlock.cells } : Buffer).byteAt a = oneBlock.byteAt a) ∧
      ({ oneBlock with cells := (0, 0xDE#8) :: oneBlock.cells } : Buffer).len = decoding.map.len ∧
      ∃ t, exec .decode decoding = .next t ∧ (t.errKind == 0#8) = true :=
  ⟨fun a h _ => by simp only [Buffer.byteAt, Memory.read, if_neg (show ¬ 0 = a by omega)], rfl,
    next_of (p := fun t => t.errKind == 0#8) (by decide +kernel)⟩

theorem wit_RenderIllegalArea :
    ({ rendering with sizeH := 0#16 } : State).sizeH = 0#16 ∧ ({ rendering with sizeV := 0#16 } : State).sizeV = 0#16 ∧
      ({ rendering with blockSize := 195#16 } : State).blockSize ≠ 196#16 := by decide

theorem wit_RenderCompletes :
    AreaLegal rendering ∧ AreaPasses rendering ∧ 0 < rendering.sizeH.toNat ∧ 0 < rendering.sizeV.toNat ∧ 7 < 8 ∧
      (∀ x, x < 8 → ∀ y, y < 8 → ∀ k, k < 3 → 192 ≠ colourOffset x y 8 + k) ∧
      ∀ x, x < 8 → ∀ y, y < 8 → 64 ≠ heightOffset x y 8 := by decide +kernel

theorem wit_RenderMatchesIndependentDecode :
    ∃ t, exec .render rendering = .next t ∧ (!t.flag .err) = true :=
  next_of (p := fun t => !t.flag .err) (by decide +kernel)

theorem wit_RenderRowOutsideGridOutOfRange :
    let s : State := { rendering with sizeV := 2#16 }
    AreaLegal s ∧ 0 < s.sizeH.toNat ∧ 1 < s.sizeV.toNat ∧ PassesBefore s 0 1 ∧ s.gridV.toNat ≤ s.startV.toNat + 1 := by
  refine ⟨by decide, by decide, by decide, ⟨by decide +kernel, by decide⟩, by decide⟩

theorem wit_RenderRecordOutsideMapTruncated :
    let s : State := { rendering with sizeH := 2#16 }
    AreaLegal s ∧ 1 < s.sizeH.toNat ∧ 0 < s.sizeV.toNat ∧ PassesBefore s 1 0 ∧ s.startV.toNat + 0 < s.gridV.toNat ∧
      s.map.len.toNat < recordOffset s (s.startH.toNat + 1) (s.startV.toNat + 0) + 196 := by
  refine ⟨by decide, by decide, by decide, ⟨by decide, by decide +kernel⟩, by decide, by decide⟩

theorem wit_RenderUnresolvedCodeMalformed :
    let s : State := { rendering with lut := { lut with len := 62#64 } }
    AreaLegal s ∧ 0 < s.sizeH.toNat ∧ 0 < s.sizeV.toNat ∧ PassesBefore s 0 0 ∧ s.startV.toNat + 0 < s.gridV.toNat ∧
      recordOffset s (s.startH.toNat + 0) (s.startV.toNat + 0) + 196 ≤ s.map.len.toNat ∧ 1 < 64 ∧
      CellsResolve s (recordOffset s (s.startH.toNat + 0) (s.startV.toNat + 0)) 1 ∧
      ¬ CodeResolves s (cellCode s (recordOffset s (s.startH.toNat + 0) (s.startV.toNat + 0)) 1) := by
  refine ⟨by decide, by decide, by decide, ⟨by decide, by decide⟩, by decide, by decide, by decide, by decide, by decide⟩

theorem wit_RenderInsideGridRaisesNoError : BootReady rendering ∧ AreaInsideGrid rendering ∧ AreaLegal rendering := by
  decide

/-- A next state of every operation, without and with an error: for the statements about any next state. -/
theorem wit_every_operation :
    (∃ t, exec .resolve start = .next t ∧ (t.errKind == 0#8) = true) ∧
      (∃ t, exec .resolve State.reset = .next t ∧ (t.errKind == 1#8) = true) ∧
      (∃ t, exec .offset start = .next t ∧ (t.errKind == 1#8) = true) ∧
      (∃ t, exec .offset { start with gridV := 1#16 } = .next t ∧ (t.errKind == 0#8) = true) ∧
      (∃ t, exec .decode start = .next t ∧ (t.errKind == 2#8) = true) ∧
      (∃ t, exec .decode { decoding with srcOff := 1#64 } = .next t ∧ (t.errKind == 3#8) = true) ∧
      (∃ t, exec .render start = .next t ∧ (t.errKind == 4#8) = true) ∧
      ∃ t, exec .render { rendering with gridV := 0#16 } = .next t ∧ (t.errKind == 1#8) = true :=
  ⟨next_of (p := fun t => t.errKind == 0#8) (by decide), next_of (p := fun t => t.errKind == 1#8) (by decide),
    next_of (p := fun t => t.errKind == 1#8) (by decide), next_of (p := fun t => t.errKind == 0#8) (by decide), next_of (p := fun t => t.errKind == 2#8) (by decide),
    next_of (p := fun t => t.errKind == 3#8) (by decide), next_of (p := fun t => t.errKind == 4#8) (by decide),
    next_of (p := fun t => t.errKind == 1#8) (by decide)⟩

/-- The same through command words, the four and a reserved one, for the statements about any command word. -/
theorem wit_every_word :
    (∃ t, runCommand (encode .resolve) start = .next t ∧ (!t.flag .err) = true) ∧
      (∃ t, runCommand (encode .offset) { start with gridV := 1#16 } = .next t ∧ (!t.flag .err) = true) ∧
      (∃ t, runCommand (encode .render) { rendering with gridV := 0#16 } = .next t ∧ (t.errKind != 4#8) = true) ∧
      ∃ t, runCommand 5#32 start = .next t ∧ (t.errKind == 4#8) = true :=
  ⟨next_of (p := fun t => !t.flag .err) (by decide), next_of (p := fun t => !t.flag .err) (by decide),
    next_of (p := fun t => t.errKind != 4#8) (by decide), next_of (p := fun t => t.errKind == 4#8) (by decide)⟩

/-- The host-event clauses of `KindsPerOperation` and `StatusFlagsTable`. -/
theorem wit_events :
    (({ start with pending := [.regWrite 13 5#64] } : State).pending = .regWrite 13 ((5#32).setWidth 64) :: [] ∧
        ∃ why, decodeCommand 5#32 = .reserved why) ∧
      (({ shown with pending := [.regRead 14] } : State).pending = .regRead 14 :: [] ∧
        HostEvent.regRead 14 ≠ .hardwareReset ∧ (∀ v, HostEvent.regRead 14 ≠ .regWrite 13 v) ∧
        ∃ t, step { shown with pending := [.regRead 14] } = .next t) ∧
      start.status.toNat < 16 :=
  ⟨⟨by decide, _, rfl⟩, ⟨rfl, by decide, fun v => by simp, _, rfl⟩, by decide⟩

/-- The causes of `ErrorRegistersDescribeLastCommand` that the witnesses above leave out: an unresolvable code in `DECODE`
(not code 0, and code 0), the three failures of `RENDER` and its success, and a reserved word. -/
theorem wit_ErrorRegistersDescribeLastCommand :
    (∃ t, exec .decode { decoding with lut := { lut with len := 62#64 } } = .next t ∧ (t.errCode == 0x1F#16) = true) ∧
      (∃ t, exec .decode { decoding with lut := { lut with len := 1#64 } } = .next t ∧
        (t.errKind == 2#8 && t.errCode == 0#16) = true) ∧
      (∃ t, exec .render { rendering with startV := 1#16 } = .next t ∧ (t.errKind == 1#8 && t.errV == 1#32) = true) ∧
      (∃ t, exec .render { rendering with startH := 1#16 } = .next t ∧ (t.errKind == 3#8 && t.errH == 1#32) = true) ∧
      (∃ t, exec .render { rendering with lut := { lut with len := 62#64 } } = .next t ∧
        (t.errKind == 2#8 && t.errCode == 0x1F#16) = true) ∧
      (∃ t, exec .render rendering = .next t ∧ (t.errKind == 0#8) = true) ∧
      decodeCommand 5#32 = .reserved (.opReserved 5#8) ∧ ∃ t, runCommand 5#32 start = .next t ∧ (t.errKind == 4#8) = true :=
  ⟨next_of (p := fun t => t.errCode == 0x1F#16) (by decide +kernel),
    next_of (p := fun t => t.errKind == 2#8 && t.errCode == 0#16) (by decide +kernel),
    next_of (p := fun t => t.errKind == 1#8 && t.errV == 1#32) (by decide +kernel),
    next_of (p := fun t => t.errKind == 3#8 && t.errH == 1#32) (by decide +kernel),
    next_of (p := fun t => t.errKind == 2#8 && t.errCode == 0x1F#16) (by decide +kernel),
    next_of (p := fun t => t.errKind == 0#8) (by decide +kernel), by decide,
    next_of (p := fun t => t.errKind == 4#8) (by decide)⟩

theorem wit_RepeatedCommandChangesNothing :
    Instr.decode ≠ .render ∧ ∃ t, exec .decode decoding = .next t ∧ (!t.flag .err) = true :=
  ⟨by decide, next_of (p := fun t => !t.flag .err) (by decide +kernel)⟩

theorem wit_LaunchParametersNeverChange : ∃ t, step { start with pending := [.hardwareReset] } = .next t := ⟨_, rfl⟩

/-- A state that meets the invariant and steps. -/
theorem wit_StepKeepsInvariant : Inv rendering ∧ ∃ t, step rendering = .next t :=
  ⟨{ statusHigh := by decide, errFlag := by decide, errKind := by decide, errClear := by decide, notDone := by decide,
     resRgb := by decide, resOff := by decide, outDims := by decide, complete := by decide, colourWf := by decide,
     heightWf := by decide }, _, rfl⟩

end Sys2Proof.Tests
end

/-! The effect of a command: what it computed from the registers and buffers it reads, apart from how the state takes
it. A statement on what a command writes is a case split over the effects; a statement on what it does not read is that
the effect is the same. -/

namespace Sys2Proof.Machine

/-! The command words -/

@[simp] theorem decodeCommand_encode (i : Instr) : decodeCommand (encode i) = .instr i := by
  cases i <;> rfl

theorem Instr.eq_op_of_ofOp {op : BitVec 8} {i : Instr} (h : Instr.ofOp op = some i) : op = i.op := by
  apply BitVec.eq_of_toNat_eq
  simp only [Instr.ofOp] at h
  split at h <;> cases h <;> assumption

/-- A word that selects an operation is that operation's word (30_encoding.md R77). -/
theorem eq_encode_of_decodeCommand {w : BitVec 32} {i : Instr} (h : decodeCommand w = .instr i) : w = encode i := by
  obtain ⟨hz, hop⟩ : w.extractLsb' 8 24 = 0#24 ∧ Instr.ofOp (w.extractLsb' 0 8) = some i := by
    unfold decodeCommand RawCommand.ofWord at h
    dsimp only at h
    split at h
    next hz =>
      split at h
      next j hj => cases h; exact ⟨hz, hj⟩
      next => cases h
    next => cases h
  calc w = w.extractLsb' 8 24 ++ w.extractLsb' 0 8 := (BitVec.extractLsb'_append_extractLsb' (w := 24) (len := 8)).symm
    _ = encode i := by rw [hz, Instr.eq_op_of_ofOp hop, encode]

theorem decodeCommand_eq_instr {w : BitVec 32} {i : Instr} : decodeCommand w = .instr i ↔ w = encode i :=
  ⟨eq_encode_of_decodeCommand, fun h => h ▸ decodeCommand_encode i⟩

/-! The flags after each named update -/

@[simp] theorem raiseError_flag (e : ErrorInfo) (s : State) (f : Flag) :
    (raiseError e s).flag f = if f = .done ∨ f = .err then true else s.flag f := by
  cases f <;> simp [State.flag, getFlag_setFlag]

@[simp] theorem completeOk_flag (s : State) (f : Flag) :
    (completeOk s).flag f = if f = .done then true else if f = .err then false else s.flag f := by
  cases f <;> simp [State.flag, getFlag_setFlag]

@[simp] theorem invalidateBlk_flag (s : State) (f : Flag) :
    (invalidateBlk s).flag f = if f = .blkValid then false else s.flag f := by
  simp [State.flag, getFlag_setFlag]

@[simp] theorem loadBlk_flag (tile : List Pixel) (s : State) (f : Flag) :
    (loadBlk tile s).flag f = if f = .blkValid then true else s.flag f := by
  simp [State.flag, getFlag_setFlag]

@[simp] theorem discardGrids_flag (w ht : Nat) (s : State) (f : Flag) :
    (discardGrids w ht s).flag f = s.flag f := rfl

@[simp] theorem startRender_flag (p : Area) (s : State) (f : Flag) :
    (startRender p s).flag f = if f = .blkValid ∨ f = .outValid then false else s.flag f := by
  cases f <;> simp [State.flag, getFlag_setFlag]

@[simp] theorem finishRender_flag (g : Grids) (s : State) (f : Flag) :
    (finishRender g s).flag f = if f = .err then false else if f = .done ∨ f = .outValid then true else s.flag f := by
  cases f <;> simp [State.flag, getFlag_setFlag]

@[simp] theorem ErrorKind.number_ne_zero (k : ErrorKind) : k.number ≠ 0#8 := by cases k <;> decide

@[simp] theorem ErrorKind.number_eq_four (k : ErrorKind) : k.number = 4#8 ↔ k = .illegal := by cases k <;> decide

/-- Writing a flag keeps the zero bits 31:4 of a status word (10_state.md R30). -/
theorem setFlag_toNat_lt {st : BitVec 32} (f : Flag) (b : Bool) (h : st.toNat < 16) : (setFlag st f b).toNat < 16 := by
  cases b with
  | false =>
    rw [setFlag, if_neg Bool.false_ne_true, BitVec.toNat_and]
    exact lt_of_le_of_lt Nat.and_le_left h
  | true =>
    rw [setFlag, if_pos rfl, BitVec.toNat_or]
    exact Nat.or_lt_two_pow (n := 4) h (by cases f <;> decide)

/-! The registers and the memory the operations read -/

/-- `s'` agrees with `s` on everything an operation reads: its operands, the input buffers, and the output spaces, in
which `RENDER` leaves the bytes beyond the new grids (10_state.md R17, R30 and R41). -/
structure SameInputs (s s' : State) : Prop where
  code : s'.code = s.code
  coordH : s'.coordH = s.coordH
  coordV : s'.coordV = s.coordV
  blockSize : s'.blockSize = s.blockSize
  gridV : s'.gridV = s.gridV
  srcOff : s'.srcOff = s.srcOff
  srcLen : s'.srcLen = s.srcLen
  area : s'.area = s.area
  lut : s'.lut = s.lut
  map : s'.map = s.map
  cgrid : s'.cgrid = s.cgrid
  hgrid : s'.hgrid = s.hgrid

theorem SameInputs.refl (s : State) : SameInputs s s := by constructor <;> rfl

theorem SameInputs.withStatus (s : State) (x : BitVec 32) : SameInputs s { s with status := x } := by
  constructor <;> rfl

theorem SameInputs.withGridH (s : State) (x : BitVec 16) : SameInputs s { s with gridH := x } := by
  constructor <;> rfl

theorem SameInputs.lutLookup {s s' : State} (h : SameInputs s s') (code : BitVec 16) :
    lutLookup s' code = Machine.lutLookup s code := by
  simp only [Machine.lutLookup, h.lut]

theorem SameInputs.decodeCells {s s' : State} (h : SameInputs s s') (base : Nat) (todo : List (Nat × Nat)) :
    decodeCells s' base todo = Machine.decodeCells s base todo := by
  induction todo with
  | nil => rfl
  | cons cell todo ih => simp only [Machine.decodeCells, h.map, h.lutLookup, ih]

theorem SameInputs.decodeBlock {s s' : State} (h : SameInputs s s') (base : Nat) :
    decodeBlock s' base = Machine.decodeBlock s base := h.decodeCells base raster

theorem SameInputs.renderBlocks {s s' : State} (h : SameInputs s s') (p : Area) (todo : List (Nat × Nat)) (g : Grids) :
    renderBlocks s' p todo g = Machine.renderBlocks s p todo g := by
  induction todo generalizing g with
  | nil => rfl
  | cons b todo ih => simp only [Machine.renderBlocks, h.map, h.decodeBlock, ih]

/-! The effects -/

/-- What a command has computed when it ends. -/
inductive Effect where
  /-- `RESOLVE` has found the colour. -/
  | resolved (c : Rgb)
  /-- `OFFSET` has found the offset. -/
  | located (o : Nat)
  /-- `DECODE` has decoded the block. -/
  | decoded (tile : List Pixel)
  | decodeFailed (e : ErrorInfo)
  /-- `RENDER` has composed the area. -/
  | rendered (p : Area) (g : Grids)
  | renderFailed (p : Area) (e : ErrorInfo)
  /-- An error that leaves `BLK` and the grids alone: of `RESOLVE`, of `OFFSET`, and every `Illegal`. -/
  | errorOnly (e : ErrorInfo)

/-- The state after a command with this effect. -/
def Effect.apply : Effect → State → State
  | .resolved c, s => completeOk { s with resRgb := c.word }
  | .located o, s => completeOk { s with resOff := BitVec.ofNat 64 o }
  | .decoded tile, s => completeOk (loadBlk tile s)
  | .decodeFailed e, s => raiseError e (invalidateBlk s)
  | .rendered p g, s => finishRender g (startRender p s)
  | .renderFailed p e, s => raiseError e (discardGrids p.pixelW p.pixelH (startRender p s))
  | .errorOnly e, s => raiseError e s

/-- The effects a command can have in the state `s` (30_encoding.md R83, 60_exceptions.md R122). -/
inductive HasEffect (s : State) : Decoded → Effect → Prop where
  | resolved : HasEffect s (.instr .resolve) (.resolved (colourOf s s.code))
  | unresolved : HasEffect s (.instr .resolve)
      (.errorOnly { kind := .outOfRange, off := lutOffset s.code, code := s.code })
  | located (h : s.coordV.toNat < s.gridV.toNat) : HasEffect s (.instr .offset)
      (.located (s.blockSize.toNat * (s.coordH.toNat * s.gridV.toNat + s.coordV.toNat)))
  | outsideGrid : HasEffect s (.instr .offset)
      (.errorOnly { kind := .outOfRange, h := s.coordH.toNat, v := s.coordV.toNat })
  | decoded (tile : List Pixel) : HasEffect s (.instr .decode) (.decoded tile)
  | decodeFailed (e : ErrorInfo) : HasEffect s (.instr .decode) (.decodeFailed e)
  | rendered (g : Grids) : HasEffect s (.instr .render) (.rendered s.area g)
  | renderFailed (e : ErrorInfo) (h : e.kind ≠ .illegal) : HasEffect s (.instr .render) (.renderFailed s.area e)
  | illegalArea : HasEffect s (.instr .render) (.errorOnly { kind := .illegal })
  | reserved (why : ReservedWord) : HasEffect s (.reserved why) (.errorOnly { kind := .illegal })

theorem BlockFails.kind_ne_illegal {s : State} {p : Area} {b : Nat × Nat} {e : ErrorInfo} (h : BlockFails s p b e) :
    e.kind ≠ .illegal := by
  cases h <;> exact ErrorKind.noConfusion

/-- The loop of `RENDER` over its area completes, or fails with an error that is not `Illegal`. -/
theorem renderBlocks_area_cases (s : State) (g : Grids) :
    (∃ g', renderBlocks s s.area s.area.blocks g = .ok (.done g')) ∨
      ∃ e, e.kind ≠ .illegal ∧ renderBlocks s s.area s.area.blocks g = .ok (.failed e) := by
  rcases blocks_cases s s.area s.area.blocks with hp | ⟨l1, b, l2, e, hs, hp, hb⟩
  · obtain ⟨g', hg, -, -⟩ := renderBlocks_done s s.area s.area.blocks g hp fun b hb => by
      obtain ⟨h1, h2, h3, -⟩ := (s.area.mem_blocks b).1 hb
      exact ⟨h1, h2, h3⟩
    exact .inl ⟨g', hg⟩
  · exact .inr ⟨e, hb.kind_ne_illegal, by rw [hs, renderBlocks_failed s s.area l1 b l2 g e hp hb]⟩

/-! One lemma per operation: an effect, and the state after it from every state with the same inputs. -/

theorem resolve_effect (s : State) : ∃ f, HasEffect s (.instr .resolve) f ∧
    ∀ s', SameInputs s s' → exec .resolve s' = .next (f.apply s') := by
  by_cases hc : CodeResolves s s.code
  · exact ⟨_, .resolved, fun s' h => by
      simp only [exec, execResolve, h.code, h.lutLookup, lutLookup_eq, if_pos hc, Effect.apply]⟩
  · exact ⟨_, .unresolved, fun s' h => by
      simp only [exec, execResolve, h.code, h.lutLookup, lutLookup_eq, if_neg hc, Effect.apply]⟩

theorem offset_effect (s : State) : ∃ f, HasEffect s (.instr .offset) f ∧
    ∀ s', SameInputs s s' → exec .offset s' = .next (f.apply s') := by
  by_cases hv : s.coordV.toNat < s.gridV.toNat
  · exact ⟨_, .located hv, fun s' h => by
      simp only [exec, execOffset, blockOffset_eq, h.coordH, h.coordV, h.blockSize, h.gridV, if_pos hv, Effect.apply]⟩
  · exact ⟨_, .outsideGrid, fun s' h => by
      simp only [exec, execOffset, blockOffset_eq, h.coordH, h.coordV, h.gridV, if_neg hv, Effect.apply]⟩

theorem decode_effect (s : State) : ∃ f, HasEffect s (.instr .decode) f ∧
    ∀ s', SameInputs s s' → exec .decode s' = .next (f.apply s') := by
  by_cases hl : s.srcLen.toNat = 196
  · by_cases hm : s.map.len.toNat < s.srcOff.toNat + 196
    · exact ⟨_, .decodeFailed { kind := .truncatedBuffer, off := s.srcOff.toNat }, fun s' h => by
        simp only [exec, execDecode, h.srcLen, h.srcOff, h.map, hl, ne_eq, not_true, if_false, if_pos hm, Effect.apply]⟩
    · rcases decodeBlock_cases (Nat.not_lt.1 hm) with ⟨-, hd⟩ | ⟨k, -, -, -, hd⟩
      · exact ⟨_, .decoded (tileAt s s.srcOff.toNat), fun s' h => by
          simp only [exec, execDecode, h.srcLen, h.srcOff, h.map, h.decodeBlock, hl, ne_eq, not_true, if_false,
            if_neg hm, hd, Effect.apply, tileAt]⟩
      · exact ⟨_, .decodeFailed
            { kind := .malformedBlock, off := s.srcOff.toNat, code := cellCode s s.srcOff.toNat k }, fun s' h => by
          simp only [exec, execDecode, h.srcLen, h.srcOff, h.map, h.decodeBlock, hl, ne_eq, not_true, if_false,
            if_neg hm, hd, Effect.apply]⟩
  · exact ⟨_, .decodeFailed { kind := .malformedBlock, off := s.srcOff.toNat }, fun s' h => by
      simp only [exec, execDecode, h.srcLen, h.srcOff, hl, ne_eq, not_false_eq_true, if_true, Effect.apply]⟩

theorem render_effect (s : State) : ∃ f, HasEffect s (.instr .render) f ∧
    ∀ s', SameInputs s s' → exec .render s' = .next (f.apply s') := by
  by_cases hi : s.area.illegal = true
  · exact ⟨_, .illegalArea, fun s' h => by simp only [exec, execRender, h.area, if_pos hi, Effect.apply]⟩
  · rcases renderBlocks_area_cases s { c := s.cgrid, h := s.hgrid } with ⟨g, hg⟩ | ⟨e, he, hf⟩
    · exact ⟨_, .rendered g, fun s' h => by
        simp only [exec, execRender, h.area, h.cgrid, h.hgrid, h.renderBlocks, if_neg hi, hg, Effect.apply]⟩
    · exact ⟨_, .renderFailed e he, fun s' h => by
        simp only [exec, execRender, h.area, h.cgrid, h.hgrid, h.renderBlocks, if_neg hi, hf, Effect.apply]⟩

/-- Every operation completes, with an effect that only its inputs decide. -/
theorem exec_effect (i : Instr) (s : State) : ∃ f, HasEffect s (.instr i) f ∧
    ∀ s', SameInputs s s' → exec i s' = .next (f.apply s') := by
  cases i
  case resolve => exact resolve_effect s
  case offset => exact offset_effect s
  case decode => exact decode_effect s
  case render => exact render_effect s

/-- Every command word runs to its end, with an effect that only the inputs of its operation decide. -/
theorem runCommand_effect (w : BitVec 32) (s : State) : ∃ f, HasEffect s (decodeCommand w) f ∧
    ∀ s', SameInputs s s' → runCommand w s' = .next (f.apply s') := by
  cases hd : decodeCommand w with
  | instr i =>
    obtain ⟨f, hf, hx⟩ := exec_effect i s
    exact ⟨f, hf, fun s' h => by rw [runCommand_instr hd, hx s' h]⟩
  | reserved why => exact ⟨_, .reserved why, fun s' _ => runCommand_reserved hd s'⟩

/-- The state a command word leaves is one of its effects applied. -/
theorem hasEffect_of_runCommand {w : BitVec 32} {s t : State} (h : runCommand w s = .next t) :
    ∃ f : Effect, HasEffect s (decodeCommand w) f ∧ t = f.apply s := by
  obtain ⟨f, hf, hx⟩ := runCommand_effect w s
  rw [hx s (.refl s)] at h
  exact ⟨f, hf, (Host.Outcome.next.inj h).symm⟩

/-! What each effect does -/

/-- Every effect keeps bits 31:4 of `STATUS` zero (10_state.md R30). -/
theorem Effect.apply_status_toNat_lt (f : Effect) {s : State} (h : s.status.toNat < 16) :
    (f.apply s).status.toNat < 16 := by
  cases f <;> simp only [Effect.apply, completeOk_status, raiseError_status, loadBlk_status, invalidateBlk_status,
    discardGrids_status, startRender_status, finishRender_status]
  all_goals
    repeat apply setFlag_toNat_lt
    exact h

/-- After a command `DONE` is 1, and `ERR` tells whether it recorded an error kind (10_state.md R30). -/
theorem Effect.apply_done_err (f : Effect) (s : State) :
    (f.apply s).flag .done = true ∧ ((f.apply s).flag .err = true ↔ (f.apply s).errKind ≠ 0#8) := by
  cases f <;> simp [Effect.apply]

@[simp] theorem Effect.apply_cmd (f : Effect) (s : State) : (f.apply s).cmd = s.cmd := by
  cases f <;> rfl

/-- An effect writes the flags whatever they were, and nothing else of it depends on them (10_state.md R30). -/
theorem Effect.apply_withStatus (f : Effect) (s : State) (x : BitVec 32) :
    f.apply { s with status := x } = { f.apply s with status := (f.apply { s with status := x }).status } := by
  cases f <;> rfl

/-- No effect touches `GRID_H` (10_state.md R17). -/
theorem Effect.apply_withGridH (f : Effect) (s : State) (x : BitVec 16) :
    f.apply { s with gridH := x } = { f.apply s with gridH := x } := by
  cases f <;> rfl

/-! The effects that write `RES_RGB`, `RES_OFF`, `OUT_W` and `OUT_H` -/

/-- The bytes of `RES_RGB` (10_state.md R35). -/
theorem Rgb.word_bytes (c : Rgb) :
    c.word.extractLsb' 16 8 = c.r ∧ c.word.extractLsb' 8 8 = c.g ∧ c.word.extractLsb' 0 8 = c.b := by
  refine ⟨?_, ?_, BitVec.extractLsb'_append_eq_right⟩
  · calc c.word.extractLsb' 16 8 = (c.r ++ c.g).extractLsb' 8 8 := BitVec.extractLsb'_append_eq_of_le (by decide)
      _ = c.r := BitVec.extractLsb'_append_eq_left
  · calc c.word.extractLsb' 8 8 = (c.r ++ c.g).extractLsb' 0 8 := BitVec.extractLsb'_append_eq_of_le (by decide)
      _ = c.g := BitVec.extractLsb'_append_eq_right

theorem HasEffect.resRgb_kept {s : State} {d : Decoded} {f : Effect} (hf : HasEffect s d f)
    (h : d ≠ .instr .resolve ∨ (f.apply s).flag .err = true) : (f.apply s).resRgb = s.resRgb := by
  cases hf with
  | resolved => simp [Effect.apply] at h
  | _ => rfl

theorem HasEffect.resolve_ok {s : State} {f : Effect} (hf : HasEffect s (.instr .resolve) f)
    (h : (f.apply s).flag .err = false) : f = .resolved (colourOf s s.code) := by
  cases hf with
  | resolved => rfl
  | unresolved => simp [Effect.apply] at h

theorem HasEffect.resOff_kept {s : State} {d : Decoded} {f : Effect} (hf : HasEffect s d f)
    (h : d ≠ .instr .offset ∨ (f.apply s).flag .err = true) : (f.apply s).resOff = s.resOff := by
  cases hf with
  | located => simp [Effect.apply] at h
  | _ => rfl

theorem HasEffect.offset_ok {s : State} {f : Effect} (hf : HasEffect s (.instr .offset) f)
    (h : (f.apply s).flag .err = false) : s.coordV.toNat < s.gridV.toNat ∧
      f = .located (s.blockSize.toNat * (s.coordH.toNat * s.gridV.toNat + s.coordV.toNat)) := by
  cases hf with
  | located hv => exact ⟨hv, rfl⟩
  | outsideGrid => simp [Effect.apply] at h

/-- The greatest offset is below 2^48 (10_state.md R36): the block index is below `2^16 * GRID_V`. -/
theorem offset_lt {bs h v gv : BitVec 16} (hv : v.toNat < gv.toNat) :
    bs.toNat * (h.toNat * gv.toNat + v.toNat) < 2 ^ 48 := by
  have hindex : h.toNat * gv.toNat + v.toNat < 2 ^ 32 :=
    calc h.toNat * gv.toNat + v.toNat
      _ < (h.toNat + 1) * gv.toNat := by rw [Nat.add_mul]; omega
      _ ≤ 2 ^ 16 * 2 ^ 16 := Nat.mul_le_mul h.isLt gv.isLt.le
      _ = 2 ^ 32 := by norm_num
  calc bs.toNat * (h.toNat * gv.toNat + v.toNat)
    _ < 2 ^ 16 * 2 ^ 32 := Nat.mul_lt_mul'' bs.isLt hindex
    _ = 2 ^ 48 := by norm_num

theorem HasEffect.outDims_kept {s : State} {d : Decoded} {f : Effect} (hf : HasEffect s d f)
    (h : d ≠ .instr .render ∨ (f.apply s).errKind = 4#8) :
    (f.apply s).outW = s.outW ∧ (f.apply s).outH = s.outH := by
  cases hf with
  | rendered g => simp [Effect.apply] at h
  | renderFailed e he => simp [Effect.apply, he] at h
  | _ => exact ⟨rfl, rfl⟩

theorem HasEffect.outDims_render {s : State} {f : Effect} (hf : HasEffect s (.instr .render) f)
    (h : (f.apply s).errKind ≠ 4#8) :
    (f.apply s).outW = BitVec.ofNat 32 (8 * s.sizeH.toNat) ∧ (f.apply s).outH = BitVec.ofNat 32 (8 * s.sizeV.toNat) := by
  cases hf with
  | rendered g => exact ⟨rfl, rfl⟩
  | renderFailed e he => exact ⟨rfl, rfl⟩
  | illegalArea => exact absurd rfl h

/-- Eight times a 16-bit size fits a register of 32 bits (10_state.md R37). -/
theorem eight_mul_size (n : BitVec 16) :
    (BitVec.ofNat 32 (8 * n.toNat)).toNat = 8 * n.toNat ∧ 8 * n.toNat ≤ 524280 := by
  have := n.isLt
  rw [BitVec.toNat_ofNat]
  omega

/-! The register map and the host's accesses -/

theorem regOfIndex_regIndex (r : Reg) : regOfIndex (regIndex r) = some r := by
  cases r with
  | blk i =>
    rw [regOfIndex, dif_pos (by simp only [regIndex]; omega)]
    simp [regIndex]
  | _ => rfl

theorem regIndex_namedRegs : ∀ k : Fin 26, regIndex namedRegs[k] = k := by decide

/-- The index a register is named by is its own (10_state.md R14). -/
theorem regOfIndex_eq_some {n : Nat} {r : Reg} : regOfIndex n = some r ↔ regIndex r = n := by
  refine ⟨fun h => ?_, fun h => h ▸ regOfIndex_regIndex r⟩
  unfold regOfIndex at h
  split at h
  next hn =>
    cases h
    simp only [regIndex]
    omega
  next =>
    obtain ⟨hn, rfl⟩ := List.getElem?_eq_some_iff.1 h
    exact regIndex_namedRegs ⟨n, hn⟩

/-- The indices that name no register (10_state.md R14). -/
theorem regOfIndex_eq_none {n : Nat} : regOfIndex n = none ↔ (26 ≤ n ∧ n ≤ 63) ∨ 128 ≤ n := by
  unfold regOfIndex
  split
  next hn => simp only [reduceCtorEq, false_iff]; omega
  next hn =>
    rw [List.getElem?_eq_none_iff, show namedRegs.length = 26 from rfl]
    omega

theorem valueFits_iff {r : Reg} {v : BusValue} : valueFits r v = true ↔ v.toNat < 2 ^ regWidth r := decide_eq_true_iff

/-- A value that fits a register of `w` bits survives the narrowing and the widening. -/
theorem setWidth_setWidth_of_fits {w : Nat} {v : BusValue} (h : v.toNat < 2 ^ w) :
    (v.setWidth w).setWidth 64 = v := by
  apply BitVec.eq_of_toNat_eq
  rw [BitVec.toNat_setWidth, BitVec.toNat_setWidth, Nat.mod_eq_of_lt h, Nat.mod_eq_of_lt v.isLt]

theorem readReg_storeReg_same {r : Reg} {v : BusValue} (s : State) (ha : regAccess r = .readWrite)
    (hv : v.toNat < 2 ^ regWidth r) : readReg (storeReg r v s) r = v := by
  cases r with
  | srcOff => rfl
  | _ => simp only [regAccess, reduceCtorEq] at ha <;> exact setWidth_setWidth_of_fits hv

theorem storeReg_readOnly {r : Reg} (v : BusValue) (s : State) (ha : regAccess r = .readOnly) :
    storeReg r v s = s := by
  cases r with
  | _ => simp only [regAccess, reduceCtorEq] at ha <;> rfl

@[simp] theorem storeReg_status (r : Reg) (v : BusValue) (s : State) : (storeReg r v s).status = s.status := by
  cases r <;> rfl

/-- A register that is not an entry of `BLK` answers its value (10_state.md R40). -/
theorem answerReg_of_index_lt {r : Reg} (s : State) (h : regIndex r < 64) : answerReg r s = answer (readReg s r) s := by
  cases r with
  | blk i => simp [regIndex] at h
  | _ => rfl

@[simp] theorem answerReg_status (r : Reg) (s : State) : (answerReg r s).status = s.status := by
  cases r with
  | blk i => simp only [answerReg]; split_ifs <;> rfl
  | _ => rfl

/-- A fitting write to a register other than `CMD` is the store (10_state.md R40). -/
theorem regWrite_storeReg {n : Nat} {r : Reg} {v : BusValue} (s : State) (hr : regOfIndex n = some r) (hc : r ≠ .cmd)
    (hv : v.toNat < 2 ^ regWidth r) : regWrite n v s = .next (storeReg r v s) := by
  simp only [regWrite, hr, if_pos (valueFits_iff.2 hv)]

/-- A fitting write to `CMD` stores the word and runs its command (10_state.md R29). -/
theorem regWrite_runCommand {n : Nat} {v : BusValue} (s : State) (hr : regOfIndex n = some .cmd)
    (hv : v.toNat < 2 ^ regWidth .cmd) :
    regWrite n v s = runCommand (v.setWidth 32) (storeReg .cmd v s) := by
  simp only [regWrite, hr, if_pos (valueFits_iff.2 hv)]

/-- A write that is served without a command is a store. -/
theorem eq_storeReg_of_regWrite {n : Nat} {v : BusValue} {s t : State} (hn : n ≠ 13) (h : regWrite n v s = .next t) :
    ∃ r, t = storeReg r v s := by
  cases hr : regOfIndex n with
  | none => simp [regWrite, hr] at h
  | some r =>
    have hc : r ≠ .cmd := by
      rintro rfl
      exact hn (regOfIndex_eq_some.1 hr).symm
    by_cases hv : v.toNat < 2 ^ regWidth r
    · rw [regWrite_storeReg s hr hc hv] at h
      exact ⟨r, (Host.Outcome.next.inj h).symm⟩
    · simp only [regWrite, hr, if_neg (mt valueFits_iff.1 hv), reduceCtorEq] at h

theorem gridRead_status {g : Grid} {a : Nat} {s t : State} (h : gridRead g a s = .next t) : t.status = s.status := by
  unfold gridRead at h
  split at h <;> cases h <;> rfl

/-- A host event other than a reset and a command leaves `STATUS` (10_state.md R30). -/
theorem serve_status {e : HostEvent} {s t : State} (hr : e ≠ .hardwareReset) (hc : ∀ v, e ≠ .regWrite 13 v)
    (h : serve e s = .next t) : t.status = s.status := by
  cases e with
  | regRead n =>
    simp only [serve, regRead] at h
    split at h <;> cases h
    exact answerReg_status _ s
  | regWrite n v =>
    obtain ⟨r, rfl⟩ := eq_storeReg_of_regWrite (fun hn => hc v (hn ▸ rfl)) h
    exact storeReg_status r v s
  | gridRead g a => exact gridRead_status h
  | hardwareReset => exact absurd rfl hr

/-- A fitting write to an RW register is served, and the register holds the value afterwards (10_state.md R14). -/
theorem regWrite_readWrite {n : Nat} {r : Reg} {v : BusValue} (s : State) (hr : regOfIndex n = some r)
    (ha : regAccess r = .readWrite) (hv : v.toNat < 2 ^ regWidth r) :
    ∃ t, regWrite n v s = .next t ∧ readReg t r = v := by
  by_cases hc : r = .cmd
  · subst hc
    obtain ⟨f, -, hx⟩ := runCommand_effect (v.setWidth 32) (storeReg .cmd v s)
    refine ⟨_, (regWrite_runCommand s hr hv).trans (hx _ (.refl _)), ?_⟩
    rw [readReg, f.apply_cmd]
    exact readReg_storeReg_same s ha hv
  · exact ⟨_, regWrite_storeReg s hr hc hv, readReg_storeReg_same s ha hv⟩

/-! The obligations -/

/-- Settles O8: the map by evaluation and the two lemmas on `regOfIndex`, the accesses by what a read answers and what a
write stores. -/
theorem registerMapIsTheTable : Obligations.RegisterMapIsTheTable := by
  refine ⟨fun s => rfl, rfl, fun _ _ _ => ⟨rfl, rfl⟩, fun _ => ⟨rfl, rfl, rfl⟩, fun _ _ => regOfIndex_eq_some,
    fun _ => regOfIndex_eq_none, fun s n r rest hp hr hn => ?_, fun s n r v rest hp hr ha hv => ?_,
    fun s n r v rest hp hr ha hv => ?_⟩
  · have hi : regIndex r < 64 := by rw [regOfIndex_eq_some.1 hr]; omega
    rw [step_cons hp]
    simp only [serve, regRead, hr, answerReg_of_index_lt _ hi]
    rfl
  · rw [step_cons hp]
    exact regWrite_readWrite _ hr ha hv
  · have hc : r ≠ .cmd := by rintro rfl; cases ha
    rw [step_cons hp, serve, regWrite_storeReg _ hr hc hv, storeReg_readOnly v _ ha]

/-- Settles O42: the flags of a command by cases over its effect, of another host event by what serving it stores. -/
theorem statusFlagsTable : Obligations.StatusFlagsTable := by
  refine ⟨⟨rfl, rfl, rfl, rfl⟩, fun s => ⟨rfl, rfl, rfl, rfl⟩, fun s rest hp => ⟨_, step_cons hp, rfl⟩,
    fun s t e rest hp hr hc h => ?_, fun w s t h => ?_, fun w x s t h => ?_⟩
  · rw [step_cons hp] at h
    exact serve_status (s := { s with pending := rest }) hr hc h
  · obtain ⟨f, hf, rfl⟩ := hasEffect_of_runCommand h
    obtain ⟨hdone, herr⟩ := f.apply_done_err s
    refine ⟨hdone, herr, ?_, ?_, f.apply_status_toNat_lt⟩
    all_goals
      generalize decodeCommand w = d at hf
      cases hf with
      | resolved => exact completeOk_flag _ _
      | located => exact completeOk_flag _ _
      | renderFailed e he => simp [Effect.apply, he]
      | _ => simp [Effect.apply]
  · obtain ⟨f, -, hx⟩ := runCommand_effect w s
    rw [hx s (.refl s)] at h
    obtain rfl := Host.Outcome.next.inj h
    exact ⟨_, hx _ (.withStatus s x), f.apply_withStatus s x⟩

/-- Settles O44: `.resolved` is the only effect that writes `RES_RGB`. -/
theorem resRgbWrittenByResolveOnly : Obligations.ResRgbWrittenByResolveOnly := by
  refine ⟨rfl, rfl, rfl, rfl, fun w s t h => ?_⟩
  obtain ⟨f, hf, rfl⟩ := hasEffect_of_runCommand h
  simp only [ne_eq, ← decodeCommand_eq_instr]
  refine ⟨hf.resRgb_kept, fun hd hok => ?_⟩
  rw [hd] at hf
  obtain rfl := hf.resolve_ok hok
  exact Rgb.word_bytes _

/-- Settles O45: `.located` is the only effect that writes `RES_OFF`. -/
theorem resOffWrittenByOffsetOnly : Obligations.ResOffWrittenByOffsetOnly := by
  refine ⟨rfl, rfl, rfl, rfl, fun w s t h => ?_⟩
  obtain ⟨f, hf, rfl⟩ := hasEffect_of_runCommand h
  simp only [ne_eq, ← decodeCommand_eq_instr]
  refine ⟨hf.resOff_kept, fun hd hok => ?_⟩
  rw [hd] at hf
  obtain ⟨hv, rfl⟩ := hf.offset_ok hok
  have hlt := offset_lt (bs := s.blockSize) (h := s.coordH) hv
  have heq := Nat.mod_eq_of_lt (hlt.trans (by norm_num : 2 ^ 48 < 2 ^ 64))
  simp only [Effect.apply, completeOk_resOff, BitVec.toNat_ofNat, heq]
  exact ⟨trivial, hlt⟩

/-- Settles O46: the effects that write the dimensions are the two of a `RENDER` past its `Illegal` checks. -/
theorem outDimsWrittenByLegalRenderOnly : Obligations.OutDimsWrittenByLegalRenderOnly := by
  refine ⟨rfl, rfl, rfl, rfl, rfl, rfl, rfl, rfl, fun w s t h => ?_⟩
  obtain ⟨f, hf, rfl⟩ := hasEffect_of_runCommand h
  simp only [ne_eq, ← decodeCommand_eq_instr]
  refine ⟨hf.outDims_kept, fun hd hk => ?_⟩
  rw [hd] at hf
  obtain ⟨hw, hh⟩ := hf.outDims_render hk
  obtain ⟨hw8, hwMax⟩ := eight_mul_size s.sizeH
  obtain ⟨hh8, hhMax⟩ := eight_mul_size s.sizeV
  rw [hw, hh, hw8, hh8]
  exact ⟨rfl, rfl, hwMax, hhMax⟩

/-- Settles O48: `GRID_H` is not among the inputs, and an effect carries it along. -/
theorem gridHIsNeverRead : Obligations.GridHIsNeverRead := by
  refine ⟨rfl, rfl, rfl, rfl, fun i s t x h => ?_⟩
  obtain ⟨f, -, hx⟩ := exec_effect i s
  rw [hx s (.refl s)] at h
  obtain rfl := Host.Outcome.next.inj h
  rw [hx _ (.withGridH s x), f.apply_withGridH]

end Sys2Proof.Machine

/-! The command words, the host script and the data formats of 30_encoding.md. -/

namespace Sys2Proof.Machine

/-! Words that select no operation -/

/-- The fields of the word of an operation (30_encoding.md R76, R77). -/
theorem encode_fields (i : Instr) :
    (encode i).extractLsb' 8 24 = 0#24 ∧ (encode i).extractLsb' 0 8 = i.op := by
  cases i <;> decide

/-- The operation codes are 0x01 to 0x04 (30_encoding.md R77). -/
theorem Instr.op_range (i : Instr) : 1 ≤ i.op.toNat ∧ i.op.toNat ≤ 4 := by
  cases i <;> decide

/-- A word with a reserved field is the word of no operation, so it selects none (30_encoding.md R83). -/
theorem decodeCommand_ne_instr {w : BitVec 32}
    (h : w.extractLsb' 8 24 ≠ 0#24 ∨ w.extractLsb' 0 8 = 0#8 ∨ 5 ≤ (w.extractLsb' 0 8).toNat) (i : Instr) :
    decodeCommand w ≠ .instr i := by
  rw [ne_eq, decodeCommand_eq_instr]
  rintro rfl
  obtain ⟨hzero, hop⟩ := encode_fields i
  obtain ⟨hlo, hhi⟩ := Instr.op_range i
  rw [hop] at h
  rcases h with hz | h0 | h5
  · exact hz hzero
  · rw [h0] at hlo
    exact absurd hlo (by decide)
  · omega

theorem exists_decodeCommand_reserved {w : BitVec 32} (h : ∀ i, decodeCommand w ≠ .instr i) :
    ∃ why, decodeCommand w = .reserved why := by
  cases hd : decodeCommand w with
  | instr i => exact absurd hd (h i)
  | reserved why => exact ⟨why, rfl⟩

/-- Every word is one of the four command words or reserved (30_encoding.md R83). -/
theorem eq_commandWord_or_reserved (w : BitVec 32) :
    (w = 1#32 ∨ w = 2#32 ∨ w = 3#32 ∨ w = 4#32) ∨ ∃ why, decodeCommand w = .reserved why := by
  cases hd : decodeCommand w with
  | reserved why => exact .inr ⟨why, rfl⟩
  | instr i =>
    rw [eq_encode_of_decodeCommand hd]
    left
    cases i with
    | resolve => exact .inl rfl
    | offset => exact .inr (.inl rfl)
    | decode => exact .inr (.inr (.inl rfl))
    | render => exact .inr (.inr (.inr rfl))

/-- Raising an error as one update of the state, with the status word written by its bits (60_exceptions.md R125). -/
theorem raiseError_eq (e : ErrorInfo) (s : State) :
    raiseError e s = { s with
      errKind := e.kind.number, errH := BitVec.ofNat 32 e.h, errV := BitVec.ofNat 32 e.v,
      errOff := BitVec.ofNat 64 e.off, errCode := e.code, status := statusErr s.status } := by
  rw [raiseError, setFlag_err_done, statusErr]

/-- The step that takes the write of a reserved word to `CMD` stores the word and raises `Illegal` (10_state.md R29,
30_encoding.md R83). -/
theorem step_reserved {s : State} {w : BitVec 32} {rest : List HostEvent} {why : ReservedWord}
    (hp : s.pending = .regWrite 13 (w.setWidth 64) :: rest) (hw : decodeCommand w = .reserved why) :
    step s = .next (raiseError { kind := .illegal } { s with pending := rest, cmd := w }) := by
  rw [step_cons hp, serve, regWrite_cmd, runCommand_reserved hw]

/-! Grey levels -/

/-- The signed height plus 128 is a byte value, so holding it in 8 bits loses nothing (30_encoding.md R81). -/
theorem height_add_bias_range (h : BitVec 8) : 0 ≤ h.toInt + 128 ∧ h.toInt + 128 ≤ 255 := by
  have hlo : -128 ≤ h.toInt := h.le_toInt
  have hhi : h.toInt < 128 := h.toInt_lt
  omega

theorem grey_toNat (h : BitVec 8) : ((grey h).toNat : Int) = h.toInt + 128 := by
  obtain ⟨hlo, hhi⟩ := height_add_bias_range h
  have hmod : (h.toInt + 128) % 256 = h.toInt + 128 := Int.emod_eq_of_lt hlo (by omega)
  calc ((grey h).toNat : Int) = (((h.toInt + 128) % 256).toNat : Int) := by rw [grey, BitVec.toNat_ofInt]; rfl
    _ = h.toInt + 128 := by rw [hmod, Int.toNat_of_nonneg hlo]

/-! The obligations -/

/-- Settles O3: no operation's word has a reserved field, so the step is that of a reserved word. -/
theorem reservedWordRaisesIllegal : Obligations.ReservedWordRaisesIllegal := by
  refine ⟨fun s w rest hp hfield => ?_, eq_commandWord_or_reserved⟩
  have hnone := decodeCommand_ne_instr hfield
  obtain ⟨why, hw⟩ := exists_decodeCommand_reserved hnone
  refine ⟨hnone, ?_⟩
  rw [step_reserved hp hw, raiseError_eq]
  rfl

/-- Settles O15: each row of R86 by evaluating the expansion, the register indices and the command word. -/
theorem scriptPseudoOperationsExpand : Obligations.ScriptPseudoOperationsExpand :=
  ⟨fun _ => rfl, fun _ _ => rfl, fun _ _ => rfl, fun _ _ _ _ => rfl, fun _ _ => rfl⟩

/-- Settles O20: the sum is in the range of a byte, so narrowing it is exact. -/
theorem greyIsExactBias : Obligations.GreyIsExactBias := fun h => ⟨grey_toNat h, height_add_bias_range h⟩

end Sys2Proof.Machine

/-! The colour look-up unit of 41_color_lut.md. -/

namespace Sys2Proof.Machine

/-! The channels of an RGB555 word -/

/-- Three zero bits below a five-bit field: eight times the field (30_encoding.md R80). -/
theorem append_zero3_toNat (c : BitVec 5) : (c ++ 0#3).toNat = c.toNat * 8 := by
  rw [BitVec.toNat_append, BitVec.toNat_zero, Nat.or_zero, Nat.shiftLeft_eq]

/-- A channel is a multiple of 8 in [0, 248] (41_color_lut.md R88). -/
theorem append_zero3_range (c : BitVec 5) : (c ++ 0#3).toNat % 8 = 0 ∧ (c ++ 0#3).toNat ≤ 248 := by
  have := c.isLt
  rw [append_zero3_toNat]
  omega

/-- The channel of the five-bit field at bit `k`. -/
theorem field5_toNat (w : BitVec 16) (k : Nat) :
    (w.extractLsb' k 5 ++ 0#3).toNat = w.toNat / 2 ^ k % 32 * 8 := by
  rw [append_zero3_toNat, BitVec.extractLsb'_toNat, Nat.shiftRight_eq_div_pow]

/-- The fields of an RGB555 word stand below bit 15, so inverting that bit leaves the colour (41_color_lut.md R88). -/
theorem rgbOfWord_flip_bit15 (w : BitVec 16) : rgbOfWord (w ^^^ 0x8000#16) = rgbOfWord w := by
  have hr : (0x8000#16).extractLsb' 10 5 = 0#5 := rfl
  have hg : (0x8000#16).extractLsb' 5 5 = 0#5 := rfl
  have hb : (0x8000#16).extractLsb' 0 5 = 0#5 := rfl
  simp only [rgbOfWord, BitVec.extractLsb'_xor, hr, hg, hb, BitVec.xor_zero]

/-! The look-up -/

/-- The codes a look-up buffer of `n` whole words resolves, with or without a byte left over (41_color_lut.md R87). -/
theorem codeResolves_iff_lt {s : State} {code : BitVec 16} {n : Nat}
    (h : s.lut.len.toNat = 2 * n ∨ s.lut.len.toNat = 2 * n + 1) : CodeResolves s code ↔ code.toNat < min n 65536 := by
  have := code.isLt
  unfold CodeResolves
  omega

/-- The last code resolves when the buffer holds the whole table (41_color_lut.md R87). -/
theorem codeResolves_last (s : State) : CodeResolves s 65535#16 ↔ 131072 ≤ s.lut.len.toNat := Iff.rfl

/-- The colour of a code is decided by the two bytes of its look-up word (41_color_lut.md R90). -/
theorem colourOf_congr {s s' : State} {code : BitVec 16}
    (hlo : s.lut.byteAt (2 * code.toNat) = s'.lut.byteAt (2 * code.toNat))
    (hhi : s.lut.byteAt (2 * code.toNat + 1) = s'.lut.byteAt (2 * code.toNat + 1)) :
    colourOf s code = colourOf s' code := by
  rw [colourOf, colourOf, lutWord, lutWord, hlo, hhi]

/-! The state after `RESOLVE` -/

/-- Completing without error as one update of the state, with the status word written by its bits (60_exceptions.md
R127). -/
theorem completeOk_eq (s : State) :
    completeOk s = { s with
      errKind := 0#8, errH := 0#32, errV := 0#32, errOff := 0#64, errCode := 0#16, status := statusOk s.status } := by
  rw [completeOk, setFlag_ok_done, statusOk]

theorem exec_resolve_ok {s : State} (h : CodeResolves s s.code) :
    exec .resolve s = .next (completeOk { s with resRgb := (colourOf s s.code).word }) := by
  rw [exec_resolve, if_pos h]

theorem exec_resolve_outOfRange {s : State} (h : ¬ CodeResolves s s.code) :
    exec .resolve s = .next (raiseError { kind := .outOfRange, off := 2 * s.code.toNat, code := s.code } s) := by
  rw [exec_resolve, if_neg h]

/-! The obligations -/

/-- Settles O23: the two outcomes of `RESOLVE` as updates of the state, the corner cases by which codes resolve. -/
theorem resolveRule : Obligations.ResolveRule := by
  refine ⟨fun s h => ?_, fun s h => ?_, fun s hc => hc ▸ codeResolves_last s, fun s hl => ?_,
    fun s n hl => codeResolves_iff_lt hl, rgbOfWord_flip_bit15, fun s hlo hhi hl hc => ?_⟩
  · rw [exec_resolve_ok h, completeOk_eq]
    rfl
  · rw [exec_resolve_outOfRange h, raiseError_eq]
    rfl
  · have hlen : s.lut.len.toNat = 2 * 0 ∨ s.lut.len.toNat = 2 * 0 + 1 :=
      hl.imp (fun h0 => by rw [h0]; rfl) (fun h1 => by rw [h1]; rfl)
    rw [codeResolves_iff_lt hlen]
    omega
  · have hres : CodeResolves s s.code := by rw [CodeResolves, hc, hl]; decide
    have hword : lutWord s s.code = 0x12#8 ++ 0x34#8 := by rw [hc, ← hlo, ← hhi]; rfl
    refine ⟨_, exec_resolve_ok hres, ?_⟩
    rw [completeOk_resRgb, colourOf, hword]
    rfl

/-- Settles O24: both commands complete, with colours the two bytes decide. -/
theorem resolveReadsTwoBytes : Obligations.ResolveReadsTwoBytes := by
  intro s s' hc h h' hlo hhi
  refine ⟨_, _, exec_resolve_ok h, exec_resolve_ok h', ?_, rfl⟩
  rw [completeOk_resRgb, completeOk_resRgb, ← hc, colourOf_congr hlo hhi]

/-- Settles O18: `expand555` reads three five-bit fields below bit 15, each put above three zero bits; the examples by
evaluation. -/
theorem expand555ShiftsChannels : Obligations.Expand555ShiftsChannels := by
  refine ⟨fun w => ?_, by decide⟩
  simp only [expand555_eq]
  refine ⟨field5_toNat w 10, field5_toNat w 5, ?_, rgbOfWord_flip_bit15 w, ?_⟩
  · calc (rgbOfWord w).b.toNat = w.toNat / 2 ^ 0 % 32 * 8 := field5_toNat w 0
      _ = w.toNat % 32 * 8 := by rw [pow_zero, Nat.div_one]
  · rintro c (rfl | rfl | rfl) <;> exact append_zero3_range _

end Sys2Proof.Machine

/-! The block address calculator of 42_block_index.md. -/

namespace Sys2Proof.Machine

/-! The block offset -/

/-- `block_offset` answers for a row below the grid height, with the block size times the block index
(42_block_index.md R94). -/
theorem blockOffset_eq_some {h v bs gv o : Nat} :
    blockOffset h v bs gv = some o ↔ v < gv ∧ bs * (h * gv + v) = o := by
  rw [blockOffset_eq, Option.ite_none_right_eq_some, Option.some.injEq]

/-- The block index decides the coordinate: its remainder by the grid height is the row (42_block_index.md R95). -/
theorem coord_eq_of_index_eq {h1 v1 h2 v2 gv : Nat} (hv1 : v1 < gv) (hv2 : v2 < gv)
    (h : h1 * gv + v1 = h2 * gv + v2) : (h1, v1) = (h2, v2) := by
  have hrem := congrArg (· % gv) h
  simp only [Nat.mul_add_mod', Nat.mod_eq_of_lt hv1, Nat.mod_eq_of_lt hv2] at hrem
  subst hrem
  have hcol := Nat.eq_of_mul_eq_mul_right (Nat.zero_lt_of_lt hv1) (Nat.add_right_cancel h)
  rw [hcol]

/-- A greater block index is at least one block further. -/
theorem mul_index_add_le {i j : Nat} (bs : Nat) (h : i < j) : bs * i + bs ≤ bs * j :=
  calc bs * i + bs = bs * (i + 1) := (Nat.mul_succ bs i).symm
    _ ≤ bs * j := Nat.mul_le_mul_left bs h

/-- The records of distinct blocks lie at least one block size apart (42_block_index.md R95). -/
theorem blockOffset_spacing {h1 v1 h2 v2 bs gv o1 o2 : Nat} (hne : (h1, v1) ≠ (h2, v2))
    (ho1 : blockOffset h1 v1 bs gv = some o1) (ho2 : blockOffset h2 v2 bs gv = some o2) :
    o1 + bs ≤ o2 ∨ o2 + bs ≤ o1 := by
  obtain ⟨hv1, rfl⟩ := blockOffset_eq_some.mp ho1
  obtain ⟨hv2, rfl⟩ := blockOffset_eq_some.mp ho2
  have hindex := mt (coord_eq_of_index_eq hv1 hv2) hne
  exact (Nat.lt_or_gt_of_ne hindex).imp (mul_index_add_le bs) (mul_index_add_le bs)

/-! The state after `OFFSET` -/

theorem exec_offset_ok {s : State} (hv : s.coordV.toNat < s.gridV.toNat) :
    exec .offset s = .next (completeOk { s with
      resOff := BitVec.ofNat 64 (s.blockSize.toNat * (s.coordH.toNat * s.gridV.toNat + s.coordV.toNat)) }) := by
  rw [exec_offset, if_pos hv]

theorem exec_offset_outOfRange {s : State} (hv : s.gridV.toNat ≤ s.coordV.toNat) :
    exec .offset s = .next (raiseError { kind := .outOfRange, h := s.coordH.toNat, v := s.coordV.toNat } s) := by
  rw [exec_offset, if_neg hv.not_gt]

/-- The value `OFFSET` leaves in `RES_OFF` for given operands (42_block_index.md R93). -/
theorem exec_offset_resOff {s : State} {h v bs gv : BitVec 16} (hh : s.coordH = h) (hv : s.coordV = v)
    (hgv : s.gridV = gv) (hbs : s.blockSize = bs) (hlt : v.toNat < gv.toNat) :
    ∃ t, exec .offset s = .next t ∧ t.resOff = BitVec.ofNat 64 (bs.toNat * (h.toNat * gv.toNat + v.toNat)) := by
  subst hh hv hgv hbs
  exact ⟨_, exec_offset_ok hlt, completeOk_resOff _⟩

/-! The obligations -/

/-- Settles O21: distinct blocks have distinct indices, so their offsets are one block size apart. -/
theorem blockOffsetInjective : Obligations.BlockOffsetInjective := by
  refine ⟨fun h1 v1 h2 v2 bs gv o1 o2 hbs _ hne ho1 ho2 => ?_,
    fun h1 v1 h2 v2 gv o1 o2 hne ho1 ho2 k1 k2 hk1 hk2 => ?_, fun h v gv hv => ?_⟩
  · have hspace := blockOffset_spacing hne ho1 ho2
    exact ⟨by omega, hspace⟩
  · have hspace := blockOffset_spacing hne ho1 ho2
    omega
  · exact blockOffset_eq_some.mpr ⟨hv, Nat.zero_mul _⟩

/-- Settles O22: a step down a column, or from its last row to the next column, is a step of the block index by one; the
examples by evaluation. -/
theorem blockOffsetColumnMajor : Obligations.BlockOffsetColumnMajor := by
  refine ⟨fun h v bs gv o hv ho => ?_, fun h bs gv o hgv ho => ?_, by decide, by decide⟩
  · obtain ⟨-, rfl⟩ := blockOffset_eq_some.mp ho
    exact blockOffset_eq_some.mpr ⟨hv, Nat.mul_succ bs (h * gv + v)⟩
  · obtain ⟨-, rfl⟩ := blockOffset_eq_some.mp ho
    have hindex : (h + 1) * gv + 0 = h * gv + (gv - 1) + 1 := by rw [Nat.succ_mul]; omega
    exact blockOffset_eq_some.mpr ⟨hgv, by rw [hindex, Nat.mul_succ]⟩

/-- Settles O25: the two outcomes of `OFFSET` as updates of the state; the corner cases are instances of them. -/
theorem offsetRule : Obligations.OffsetRule := by
  refine ⟨fun s hv => ⟨offset_lt hv, ?_⟩, fun s hv => ?_, fun s hgv => ?_, fun s hbs hv => ?_, fun s _ hv => ?_,
    fun s hh hv hgv hbs => exec_offset_resOff hh hv hgv hbs (by decide),
    fun s hh hv hgv hbs => exec_offset_resOff hh hv hgv hbs (by decide)⟩
  · rw [exec_offset_ok hv, completeOk_eq]
  · rw [exec_offset_outOfRange hv, raiseError_eq]
    simp only [BitVec.ofNat_toNat]
    rfl
  · have hv : s.gridV.toNat ≤ s.coordV.toNat := by rw [hgv]; exact Nat.zero_le _
    exact ⟨_, exec_offset_outOfRange hv, raiseError_errKind _ _⟩
  · obtain ⟨t, ht, hoff⟩ := exec_offset_resOff rfl rfl rfl hbs hv
    exact ⟨t, ht, by rw [hoff, BitVec.toNat_zero, Nat.zero_mul]⟩
  · exact ⟨_, exec_offset_ok hv, completeOk_errKind _⟩

end Sys2Proof.Machine

/-! The block decoder of 43_block_decoder.md. -/

namespace Sys2Proof.Machine

/-! The two fields of a cell entry -/

/-- An entry put together from its bytes is its code below its height byte (43_block_decoder.md R100). -/
theorem cellUnpack_append (b0 b1 b2 : Byte) : cellUnpack (b2 ++ b1 ++ b0) = (b1 ++ b0, b2) := by
  have hassoc : (b2 ++ b1 ++ b0 : BitVec 24) = b2 ++ (b1 ++ b0) := BitVec.append_assoc
  rw [cellUnpack, hassoc]
  exact Prod.ext BitVec.extractLsb'_append_eq_right BitVec.extractLsb'_append_eq_left

/-- A byte read as a signed value (30_encoding.md R82). -/
theorem byte_toInt (b : Byte) : b.toInt = if 128 ≤ b.toNat then (b.toNat : Int) - 256 else b.toNat := by
  rw [BitVec.toInt_eq_toNat_cond]
  split_ifs <;> omega

/-! What a decoding reads -/

/-- A read of a buffer is decided by its length and the bytes read, whether it is inside or not. -/
theorem memRead_congr {b b' : Buffer} {addr n : Nat} (hlen : b'.len = b.len)
    (hbytes : ∀ a, addr ≤ a → a < addr + n → b'.byteAt a = b.byteAt a) : memRead b' addr n = memRead b addr n := by
  have hread : (List.range n).map (fun k => b'.byteAt (addr + k)) = (List.range n).map fun k => b.byteAt (addr + k) :=
    List.map_congr_left fun k hk => hbytes _ (Nat.le_add_right addr k) (Nat.add_lt_add_left (List.mem_range.mp hk) addr)
  rw [memRead, memRead, hlen, hread]

/-- The entries of the cells lie in the bytes 4 to 195 of a record (43_block_decoder.md R99). -/
theorem cellOff_range {c : Nat × Nat} (hc : c ∈ raster) :
    Config.hdrBytes ≤ cellOff c.1 c.2 ∧ cellOff c.1 c.2 + Config.cellBytes ≤ Config.blockBytes := by
  rw [raster_eq, List.mem_map] at hc
  obtain ⟨i, hi, rfl⟩ := hc
  have hi := List.mem_range.mp hi
  simp only [cellOff_raster, Config.hdrBytes, Config.cellBytes, Config.blockBytes]
  omega

/-- Cells whose entries read alike decode alike: the look-up does not read `MAP`. -/
theorem decodeCells_congr_map {s : State} {m : Buffer} {base : Nat} {todo : List (Nat × Nat)}
    (hread : ∀ c ∈ todo, memRead m (base + cellOff c.1 c.2) Config.cellBytes =
      memRead s.map (base + cellOff c.1 c.2) Config.cellBytes) :
    decodeCells { s with map := m } base todo = decodeCells s base todo := by
  induction todo with
  | nil => rfl
  | cons c todo ih =>
    obtain ⟨hc, htodo⟩ := List.forall_mem_cons.mp hread
    have hlookup (code : BitVec 16) : lutLookup { s with map := m } code = lutLookup s code := rfl
    simp only [decodeCells, hc, hlookup, ih htodo]

/-- `decode_block` reads the bytes 4 to 195 of the record and no other byte of `MAP` (43_block_decoder.md R99, R102). -/
theorem decodeBlock_congr_map {s : State} {m : Buffer} {base : Nat} (hlen : m.len = s.map.len)
    (hbytes : ∀ a, base + 4 ≤ a → a < base + 196 → m.byteAt a = s.map.byteAt a) :
    decodeBlock { s with map := m } base = decodeBlock s base := by
  refine decodeCells_congr_map fun c hc => memRead_congr hlen fun a hlo hhi => ?_
  obtain ⟨hfirst, hlast⟩ := cellOff_range hc
  simp only [Config.hdrBytes, Config.cellBytes, Config.blockBytes] at hfirst hlast hhi
  exact hbytes a (by omega) (by omega)

/-- `DECODE` uses `MAP` for its length and for the decoding of the record only. -/
theorem exec_decode_congr_map {s t : State} {m : Buffer} (hlen : m.len = s.map.len)
    (hblock : decodeBlock { s with map := m } s.srcOff.toNat = decodeBlock s s.srcOff.toNat)
    (h : exec .decode s = .next t) : exec .decode { s with map := m } = .next { t with map := m } := by
  simp only [exec, execDecode, hlen, hblock] at h ⊢
  split_ifs at h ⊢ with hlength htruncated
  · cases h; rfl
  · cases h; rfl
  · generalize decodeBlock s s.srcOff.toNat = decoding at h ⊢
    rcases decoding with f | tile | code
    · cases h
    · cases h; rfl
    · cases h; rfl

/-! The obligations -/

/-- Settles O30: the record's cell entries are all that is read of `MAP`, and they begin after the header. -/
theorem decodeIgnoresHeader : Obligations.DecodeIgnoresHeader :=
  ⟨fun _ _ _ hlen hbytes => decodeBlock_congr_map hlen hbytes,
    fun _ _ _ hlen hbytes => exec_decode_congr_map hlen (decodeBlock_congr_map hlen hbytes)⟩

/-- Settles O19: the fields are the bytes of the entry, the last one signed; the examples by evaluation. -/
theorem cellUnpackSplitsEntry : Obligations.CellUnpackSplitsEntry := by
  refine ⟨fun b0 b1 b2 => ?_, by decide⟩
  rw [cellUnpack_append]
  refine ⟨?_, byte_toInt b2⟩
  calc (b1 ++ b0).toNat = b1.toNat * 256 + b0.toNat := append_byte_toNat b1 b0
    _ = b0.toNat + 256 * b1.toNat := by omega

end Sys2Proof.Machine

/-! The tile-grid compositor of 44_area_renderer.md. -/

namespace Sys2Proof.Machine

/-! The outcomes of `RENDER` -/

theorem State.area_legal (s : State) : AreaLegal s ↔ ¬ s.area.illegal = true := by
  rw [s.area_illegal, not_not]

theorem exec_render_illegal {s : State} (h : ¬ AreaLegal s) :
    exec .render s = .next (raiseError { kind := .illegal } s) := by
  rcases exec_render_cases s with ⟨-, hx⟩ | ⟨hL, -⟩ | ⟨hL, -⟩
  · exact hx
  · exact absurd hL h
  · exact absurd hL h

theorem BlockFails.not_passes {s : State} {p : Area} {b : Nat × Nat} {e : ErrorInfo} (h : BlockFails s p b e) :
    ¬ Area.BlockPasses s p b := by
  rintro ⟨hrow, hrecord, hcodes⟩
  cases h with
  | row h => exact absurd hrow h.not_gt
  | record _ hm => exact absurd hrecord hm.not_ge
  | code k _ _ hk _ hn => exact hn (hcodes k hk)

/-- `RENDER` from `s` passes all its checks, and `g` is what the output spaces hold after it. -/
structure RendersTo (s : State) (g : Grids) : Prop where
  legal : AreaLegal s
  passes : ∀ b ∈ s.area.blocks, Area.BlockPasses s s.area b
  colour : ∀ a, Memory.read g.c a = renderedColour s s.area s.area.blocks { c := s.cgrid, h := s.hgrid } a
  height : ∀ a, Memory.read g.h a = renderedHeight s s.area s.area.blocks { c := s.cgrid, h := s.hgrid } a

/-- `RENDER` of a legal area whose blocks all pass completes (44_area_renderer.md R106). -/
theorem exec_render_of_passes {s : State} (hL : AreaLegal s)
    (hp : ∀ b ∈ s.area.blocks, Area.BlockPasses s s.area b) :
    ∃ g, RendersTo s g ∧ exec .render s = .next (finishRender g (startRender s.area s)) := by
  rcases exec_render_cases s with ⟨hn, -⟩ | ⟨-, l1, b, l2, e, hs, -, hb, -⟩ | ⟨-, -, g, hx, hc, hh, -⟩
  · exact absurd hL hn
  · exact absurd (hp b (hs ▸ List.mem_append_right l1 List.mem_cons_self)) hb.not_passes
  · exact ⟨g, ⟨hL, hp, hc, hh⟩, hx⟩

/-- A `RENDER` that leaves `ERR` 0 has passed all its checks. -/
theorem rendersTo_of_exec_render_ok {s t : State} (h : exec .render s = .next t) (hok : t.flag .err = false) :
    ∃ g, RendersTo s g ∧ t = finishRender g (startRender s.area s) := by
  rcases exec_render_cases s with ⟨-, hx⟩ | ⟨-, l1, b, l2, e, -, -, -, hx⟩ | ⟨hL, hp, -⟩
  · obtain rfl := Host.Outcome.next.inj (hx.symm.trans h)
    simp at hok
  · obtain rfl := Host.Outcome.next.inj (hx.symm.trans h)
    simp at hok
  · obtain ⟨g, hg, hx⟩ := exec_render_of_passes hL hp
    exact ⟨g, hg, (Host.Outcome.next.inj (hx.symm.trans h)).symm⟩

/-! The pixels of a rendered area -/

/-- The row-major index of a pixel gives back its row and column (20_memory.md R66). -/
theorem pixelIndex_div_mod {x w : Nat} (y : Nat) (hx : x < w) : (y * w + x) / w = y ∧ (y * w + x) % w = x := by
  have hw : 0 < w := Nat.zero_lt_of_lt hx
  refine ⟨?_, Nat.mul_add_mod_of_lt hx⟩
  rw [Nat.mul_comm, Nat.mul_add_div hw, Nat.div_eq_of_lt hx, Nat.add_zero]

/-- A position in a row of 8-pixel tiles gives back the tile and the place in it (44_area_renderer.md R111). -/
theorem tilePosition_div_mod {h : Nat} (i : Nat) (hh : h < 8) : (8 * i + h) / 8 = i ∧ (8 * i + h) % 8 = h := by
  omega

theorem Area.pixel_lt_pixelW {p : Area} {i h : Nat} (hi : i < p.w) (hh : h < 8) : 8 * i + h < p.pixelW := by
  simp only [Area.pixelW, Config.tileW]
  omega

section
variable {s : State} {p : Area} {l : List (Nat × Nat)} {g : Grids} {i j h v : Nat}

/-- The colour of cell (h, v) of a rendered block, at its pixel (44_area_renderer.md R111). -/
theorem renderedColour_pixel (hmem : (p.sh + i, p.sv + j) ∈ l) (hi : i < p.w) (hh : h < 8) (hv : v < 8) {k : Nat}
    (hk : k < 3) :
    renderedColour s p l g (3 * ((8 * j + v) * p.pixelW + (8 * i + h)) + k) =
      some ((cellPixel s (p.bs * ((p.sh + i) * p.gv + (p.sv + j))) (8 * v + h)).rgb.channel k) := by
  obtain ⟨hy, hx⟩ := pixelIndex_div_mod (8 * j + v) (p.pixel_lt_pixelW hi hh)
  obtain ⟨hi8, hh8⟩ := tilePosition_div_mod i hh
  obtain ⟨hj8, hv8⟩ := tilePosition_div_mod j hv
  rw [renderedColour, Nat.mul_add_div (by decide), Nat.div_eq_of_lt hk, Nat.add_zero, Nat.mul_add_mod,
    Nat.mod_eq_of_lt hk, hx, hy, hi8, hj8, hh8, hv8, if_pos hmem]

/-- The grey level of cell (h, v) of a rendered block, at its pixel (44_area_renderer.md R111). -/
theorem renderedHeight_pixel (hmem : (p.sh + i, p.sv + j) ∈ l) (hi : i < p.w) (hh : h < 8) (hv : v < 8) :
    renderedHeight s p l g ((8 * j + v) * p.pixelW + (8 * i + h)) =
      some (grey (cellPixel s (p.bs * ((p.sh + i) * p.gv + (p.sv + j))) (8 * v + h)).height) := by
  obtain ⟨hy, hx⟩ := pixelIndex_div_mod (8 * j + v) (p.pixel_lt_pixelW hi hh)
  obtain ⟨hi8, hh8⟩ := tilePosition_div_mod i hh
  obtain ⟨hj8, hv8⟩ := tilePosition_div_mod j hv
  rw [renderedHeight, hx, hy, hi8, hj8, hh8, hv8, if_pos hmem]

end

/-- The channels of a colour in the order of its bytes in `CGRID` (30_encoding.md R73). -/
theorem Rgb.getElem?_channels (c : Rgb) {k : Nat} (hk : k < 3) : [c.r, c.g, c.b][k]? = some (c.channel k) := by
  match k, hk with
  | 0, _ => rfl
  | 1, _ => rfl
  | 2, _ => rfl

theorem decodeBlock_tileAt {s : State} {base : Nat} (hb : base + 196 ≤ s.map.len.toNat) (h : CellsResolve s base 64) :
    decodeBlock s base = .ok (.pixels (tileAt s base)) := decodeBlock_pixels hb h

theorem tileAt_getElem? (s : State) (base : Nat) {k : Nat} (hk : k < 64) :
    (tileAt s base)[k]? = some (cellPixel s base k) := by
  rw [tileAt, List.getElem?_map, List.getElem?_range hk, Option.map_some]

/-- Every block of a rendered area stands in the grids as its record decodes by itself (44_area_renderer.md R114). -/
theorem RendersTo.block_decoded {s : State} {g : Grids} (hg : RendersTo s g) {i j : Nat} (hi : i < s.sizeH.toNat)
    (hj : j < s.sizeV.toNat) :
    ∃ (o : Nat) (tile : List Pixel), blockOffset (s.startH.toNat + i) (s.startV.toNat + j) 196 s.gridV.toNat = some o ∧
      decodeBlock s o = .ok (.pixels tile) ∧
      ∀ h v, h < 8 → v < 8 → ∃ px : Pixel, tile[8 * v + h]? = some px ∧
        (∀ k, k < 3 → Memory.read g.c (3 * ((8 * j + v) * (8 * s.sizeH.toNat) + (8 * i + h)) + k) =
          [px.rgb.r, px.rgb.g, px.rgb.b][k]?) ∧
        Memory.read g.h ((8 * j + v) * (8 * s.sizeH.toNat) + (8 * i + h)) = some (grey px.height) := by
  obtain ⟨-, -, hblockSize⟩ := hg.legal
  have hbs : s.blockSize.toNat = 196 := congrArg BitVec.toNat hblockSize
  have hmem : (s.area.sh + i, s.area.sv + j) ∈ s.area.blocks :=
    (s.area.mem_blocks _).2 ⟨Nat.le_add_right .., Nat.add_lt_add_left hi _, Nat.le_add_right ..,
      Nat.add_lt_add_left hj _⟩
  obtain ⟨hrow, hrecord, hcodes⟩ := hg.passes _ hmem
  refine ⟨_, _, blockOffset_eq_some.2 ⟨hrow, by rw [← hbs]; rfl⟩, decodeBlock_tileAt hrecord hcodes, fun h v hh hv =>
    ⟨_, tileAt_getElem? s _ (by omega), fun k hk => ?_, ?_⟩⟩
  · rw [Rgb.getElem?_channels _ hk]
    exact (hg.colour _).trans (renderedColour_pixel hmem hi hh hv hk)
  · exact (hg.height _).trans (renderedHeight_pixel hmem hi hh hv)

/-! Rendering again -/

section
variable {s t : State} (hlut : t.lut = s.lut) (hmap : t.map = s.map)
include hlut hmap

/-- The cells of a record are decided by the input buffers. -/
theorem cellPixel_congr (base i : Nat) : cellPixel t base i = cellPixel s base i := by
  simp only [cellPixel, colourOf, lutWord, cellCode, cellHeight, hlut, hmap]

/-- The checks of a block read the area and the input buffers only. -/
theorem Area.blockPasses_congr (p : Area) (b : Nat × Nat) : Area.BlockPasses t p b ↔ Area.BlockPasses s p b := by
  simp only [Area.BlockPasses, CellsResolve, CodeResolves, cellCode, hlut, hmap]

variable {p : Area} {l : List (Nat × Nat)} {g g' : Grids}

/-- Composing blocks over grids that hold them already gives the same colours. -/
theorem renderedColour_again (hg : ∀ a, Memory.read g'.c a = renderedColour s p l g a) (a : Nat) :
    renderedColour t p l g' a = Memory.read g'.c a := by
  by_cases hin : (p.sh + a / 3 % p.pixelW / 8, p.sv + a / 3 / p.pixelW / 8) ∈ l
  · rw [hg a, renderedColour, renderedColour, if_pos hin, if_pos hin, cellPixel_congr hlut hmap]
  · rw [renderedColour, if_neg hin]

/-- Composing blocks over grids that hold them already gives the same grey levels. -/
theorem renderedHeight_again (hg : ∀ a, Memory.read g'.h a = renderedHeight s p l g a) (a : Nat) :
    renderedHeight t p l g' a = Memory.read g'.h a := by
  by_cases hin : (p.sh + a % p.pixelW / 8, p.sv + a / p.pixelW / 8) ∈ l
  · rw [hg a, renderedHeight, renderedHeight, if_pos hin, if_pos hin, cellPixel_congr hlut hmap]
  · rw [renderedHeight, if_neg hin]

end

@[simp] theorem startRender_area (p : Area) (s : State) : (startRender p s).area = s.area := rfl

@[simp] theorem finishRender_area (g : Grids) (s : State) : (finishRender g s).area = s.area := rfl

/-- `RENDER` from a state with the same area and buffers, whose output spaces a `RENDER` has left, completes and leaves
every byte of them (44_area_renderer.md R114). -/
theorem RendersTo.again {s t : State} {g : Grids} (hg : RendersTo s g) (harea : t.area = s.area)
    (hlut : t.lut = s.lut) (hmap : t.map = s.map) (hc : t.cgrid = g.c) (hh : t.hgrid = g.h) :
    ∃ g', exec .render t = .next (finishRender g' (startRender s.area t)) ∧
      (∀ a, Memory.read g'.c a = Memory.read g.c a) ∧ ∀ a, Memory.read g'.h a = Memory.read g.h a := by
  have hL : AreaLegal t := t.area_legal.2 (harea ▸ s.area_legal.1 hg.legal)
  have hp : ∀ b ∈ t.area.blocks, Area.BlockPasses t t.area b := by
    rw [harea]
    exact fun b hb => (Area.blockPasses_congr hlut hmap _ b).2 (hg.passes b hb)
  obtain ⟨g', hg', hx⟩ := exec_render_of_passes hL hp
  refine ⟨g', harea ▸ hx, fun a => ?_, fun a => ?_⟩
  · rw [hg'.colour a, harea, hc, hh]
    exact renderedColour_again hlut hmap hg.colour a
  · rw [hg'.height a, harea, hc, hh]
    exact renderedHeight_again hlut hmap hg.height a

/-! The obligations -/

/-- Settles O33: each byte of a tile by what the loop leaves at its pixel; a second `RENDER` passes the same checks and
writes the bytes that stand there. -/
theorem renderMatchesIndependentDecode : Obligations.RenderMatchesIndependentDecode := by
  intro s t h hok
  obtain ⟨g, hg, rfl⟩ := rendersTo_of_exec_render_ok h hok
  obtain ⟨g', hx, hc, hh⟩ :=
    hg.again (t := finishRender g (startRender s.area s)) (by simp) (by simp) (by simp) rfl rfl
  refine ⟨fun i j hi hj => hg.block_decoded hi hj, _, hx, by simp, by simp, by simp, fun grid a => ?_⟩
  cases grid with
  | colour => exact hc a
  | height => exact hh a

/-- Settles O31: each of the three makes the area illegal, and `Illegal` is raised on the state as it stands. -/
theorem renderIllegalArea : Obligations.RenderIllegalArea := by
  intro s h
  have hL : ¬ AreaLegal s := by
    rintro ⟨hw, hh, hb⟩
    rcases h with h | h | h
    · exact hw h
    · exact hh h
    · exact h hb
  rw [exec_render_illegal hL, raiseError_eq]
  rfl

end Sys2Proof.Machine

/-! The error registers of 60_exceptions.md: for each operation the causes of an error, what each of them records, and
when there is none. -/

namespace Sys2Proof.Machine

/-! What the error registers hold -/

/-- The error registers of `t` hold the error `e` (60_exceptions.md R125). -/
structure Recorded (e : ErrorInfo) (t : State) : Prop where
  kind : t.errKind = e.kind.number
  h : t.errH = BitVec.ofNat 32 e.h
  v : t.errV = BitVec.ofNat 32 e.v
  off : t.errOff = BitVec.ofNat 64 e.off
  code : t.errCode = e.code

/-- The error registers of `t` hold no error (60_exceptions.md R127). -/
structure NothingRecorded (t : State) : Prop where
  kind : t.errKind = 0#8
  h : t.errH = 0#32
  v : t.errV = 0#32
  off : t.errOff = 0#64
  code : t.errCode = 0#16

theorem recorded_raiseError (e : ErrorInfo) (s : State) : Recorded e (raiseError e s) := ⟨rfl, rfl, rfl, rfl, rfl⟩

theorem nothingRecorded_completeOk (s : State) : NothingRecorded (completeOk s) := ⟨rfl, rfl, rfl, rfl, rfl⟩

theorem nothingRecorded_finishRender (g : Grids) (s : State) : NothingRecorded (finishRender g s) :=
  nothingRecorded_completeOk _

theorem Recorded.kind_ne_zero {e : ErrorInfo} {t : State} (h : Recorded e t) : t.errKind ≠ 0#8 := by
  rw [h.kind]
  exact e.kind.number_ne_zero

theorem Recorded.kind_eq_four {e : ErrorInfo} {t : State} (h : Recorded e t) : t.errKind = 4#8 ↔ e.kind = .illegal := by
  rw [h.kind, ErrorKind.number_eq_four]

/-- An offset of a register access or of a record in `MAP` is recorded exactly (60_exceptions.md R123). -/
theorem Recorded.off_toNat {e : ErrorInfo} {t : State} (h : Recorded e t) (hlt : e.off < 2 ^ 64) :
    t.errOff.toNat = e.off := by
  rw [h.off, BitVec.toNat_ofNat, Nat.mod_eq_of_lt hlt]

/-- A coordinate is recorded exactly (60_exceptions.md R123). -/
theorem Recorded.coord_toNat {e : ErrorInfo} {t : State} (h : Recorded e t) (hh : e.h < 2 ^ 32) (hv : e.v < 2 ^ 32) :
    t.errH.toNat = e.h ∧ t.errV.toNat = e.v := by
  rw [h.h, h.v, BitVec.toNat_ofNat, BitVec.toNat_ofNat, Nat.mod_eq_of_lt hh, Nat.mod_eq_of_lt hv]
  exact ⟨rfl, rfl⟩

/-! The blocks of a legal area -/

/-- The record of a block of a legal area, the block size being 196 (44_area_renderer.md R116). -/
theorem area_offset_eq {s : State} (hL : AreaLegal s) (rh rv : Nat) :
    s.area.bs * (rh * s.area.gv + rv) = recordOffset s rh rv := by
  obtain ⟨-, -, hbs⟩ := hL
  have hbs : s.area.bs = 196 := congrArg BitVec.toNat hbs
  rw [hbs]
  rfl

theorem area_blockPasses_iff {s : State} (hL : AreaLegal s) (rh rv : Nat) :
    Area.BlockPasses s s.area (rh, rv) ↔ BlockPasses s rh rv := by
  rw [Area.BlockPasses, area_offset_eq hL]
  rfl

/-- The blocks the loop of `RENDER` visits are those of the area. -/
theorem forall_blocks_pass_iff {s : State} (hL : AreaLegal s) :
    (∀ b ∈ s.area.blocks, Area.BlockPasses s s.area b) ↔ AreaPasses s := by
  simp only [Area.blocks, List.mem_flatMap, List.mem_map, List.mem_range]
  constructor
  · exact fun h j hj i hi => (area_blockPasses_iff hL _ _).1 (h _ ⟨j, hj, i, hi, rfl⟩)
  · rintro h _ ⟨j, hj, i, hi, rfl⟩
    exact (area_blockPasses_iff hL _ _).2 (h j hj i hi)

theorem exists_blockFails {s : State} {p : Area} {b : Nat × Nat} (h : ¬ Area.BlockPasses s p b) :
    ∃ e, BlockFails s p b e := by
  rcases blocks_cases s p [b] with hp | ⟨l1, c, l2, e, hs, -, hc⟩
  · exact absurd (hp b (List.mem_singleton_self b)) h
  · have hcb : c = b := List.mem_singleton.1 (hs ▸ List.mem_append_right l1 List.mem_cons_self)
    exact ⟨e, hcb ▸ hc⟩

/-- An area with a block that fails has a first one: the lowest row with a failing block, and the leftmost in it
(60_exceptions.md R124). -/
theorem exists_first_failing_block {s : State} (h : ¬ AreaPasses s) :
    ∃ i j, i < s.sizeH.toNat ∧ j < s.sizeV.toNat ∧ PassesBefore s i j ∧
      ¬ BlockPasses s (s.startH.toNat + i) (s.startV.toNat + j) := by
  classical
  have hrow : ∃ j, j < s.sizeV.toNat ∧ ∃ i, i < s.sizeH.toNat ∧
      ¬ BlockPasses s (s.startH.toNat + i) (s.startV.toNat + j) := by
    simpa only [AreaPasses, not_forall, exists_prop] using h
  obtain ⟨hj, hcol⟩ := Nat.find_spec hrow
  obtain ⟨hi, hfails⟩ := Nat.find_spec hcol
  refine ⟨Nat.find hcol, Nat.find hrow, hi, hj, ⟨fun j' hj' i' hi' => ?_, fun i' hi' => ?_⟩, hfails⟩
  · exact by_contra fun hn => Nat.find_min hrow hj' ⟨hj'.trans hj, i', hi', hn⟩
  · exact by_contra fun hn => Nat.find_min hcol hi' ⟨hi'.trans hi, hn⟩

/-- `RENDER` raises the error of the first block that fails (44_area_renderer.md R106, R110). -/
theorem exec_render_first_failing_block {s : State} {i j : Nat} {e : ErrorInfo} (hL : AreaLegal s)
    (hi : i < s.sizeH.toNat) (hj : j < s.sizeV.toNat) (hbefore : PassesBefore s i j)
    (hb : BlockFails s s.area (s.startH.toNat + i, s.startV.toNat + j) e) :
    exec .render s = .next (raiseError e (discardGrids s.area.pixelW s.area.pixelH (startRender s.area s))) := by
  obtain ⟨l1, l2, hs, hl1⟩ := s.area.blocks_split hi hj
  obtain ⟨habove, hleft⟩ := hbefore
  have hp : ∀ b ∈ l1, Area.BlockPasses s s.area b := by
    intro b hb
    rcases hl1 b hb with ⟨j', i', hj', hi', rfl⟩ | ⟨i', hi', rfl⟩
    · exact (area_blockPasses_iff hL _ _).2 (habove j' hj' i' hi')
    · exact (area_blockPasses_iff hL _ _).2 (hleft i' hi')
  have hloop (g : Grids) : renderBlocks s s.area s.area.blocks g = .ok (.failed e) :=
    hs ▸ renderBlocks_failed s s.area l1 _ l2 g e hp hb
  simp only [exec, execRender, if_neg (s.area_legal.1 hL), hloop]

/-! The causes of an error -/

/-- The operation has nothing to report (41_color_lut.md R87, 42_block_index.md R93, 43_block_decoder.md R98,
44_area_renderer.md R106). -/
def Completes (s : State) : Instr → Prop
  | .resolve => CodeResolves s s.code
  | .offset => s.coordV.toNat < s.gridV.toNat
  | .decode => s.srcLen = 196#16 ∧ s.srcOff.toNat + 196 ≤ s.map.len.toNat ∧ CellsResolve s s.srcOff.toNat 64
  | .render => AreaLegal s ∧ AreaPasses s

/-- The rows of 60_exceptions.md R123: what makes an operation fail in the state `s`, and the error it records. -/
inductive ErrorCause (s : State) : Instr → ErrorInfo → Prop where
  | code (hn : ¬ CodeResolves s s.code) :
    ErrorCause s .resolve { kind := .outOfRange, off := 2 * s.code.toNat, code := s.code }
  | row (hv : s.gridV.toNat ≤ s.coordV.toNat) :
    ErrorCause s .offset { kind := .outOfRange, h := s.coordH.toNat, v := s.coordV.toNat }
  | length (hl : s.srcLen ≠ 196#16) :
    ErrorCause s .decode { kind := .malformedBlock, off := s.srcOff.toNat }
  | record (hl : s.srcLen = 196#16) (hm : s.map.len.toNat < s.srcOff.toNat + 196) :
    ErrorCause s .decode { kind := .truncatedBuffer, off := s.srcOff.toNat }
  | cell (k : Nat) (hl : s.srcLen = 196#16) (hm : s.srcOff.toNat + 196 ≤ s.map.len.toNat) (hk : k < 64)
    (hr : CellsResolve s s.srcOff.toNat k) (hn : ¬ CodeResolves s (cellCode s s.srcOff.toNat k)) :
    ErrorCause s .decode { kind := .malformedBlock, off := s.srcOff.toNat, code := cellCode s s.srcOff.toNat k }
  | area (hL : ¬ AreaLegal s) : ErrorCause s .render { kind := .illegal }
  | block (i j : Nat) {e : ErrorInfo} (hL : AreaLegal s) (hi : i < s.sizeH.toNat) (hj : j < s.sizeV.toNat)
    (hbefore : PassesBefore s i j) (hb : BlockFails s s.area (s.startH.toNat + i, s.startV.toNat + j) e) :
    ErrorCause s .render e

/-- An operation with a cause of an error does not complete without one. -/
theorem ErrorCause.not_completes {s : State} {i : Instr} {e : ErrorInfo} (h : ErrorCause s i e) : ¬ Completes s i := by
  cases h with
  | code hn => exact hn
  | row hv => exact hv.not_gt
  | length hl => exact fun ⟨hlen, _⟩ => hl hlen
  | record _ hm => exact fun ⟨_, hin, _⟩ => absurd hin hm.not_ge
  | cell k _ _ hk _ hn => exact fun ⟨_, _, hall⟩ => hn (hall k hk)
  | area hL => exact fun ⟨hlegal, _⟩ => hL hlegal
  | block i j hL hi hj _ hb => exact fun ⟨_, hall⟩ => hb.not_passes ((area_blockPasses_iff hL _ _).2 (hall j hj i hi))

/-- `Illegal` is raised by an illegal area alone, and records nothing beside its kind (60_exceptions.md R123). -/
theorem ErrorCause.illegal {s : State} {i : Instr} {e : ErrorInfo} (h : ErrorCause s i e) (hk : e.kind = .illegal) :
    e = { kind := .illegal } := by
  cases h with
  | area => rfl
  | block i j _ _ _ _ hb => exact absurd hk hb.kind_ne_illegal
  | _ => cases hk

/-- The outcome of an operation as the error registers show it. -/
def Reports (s : State) (i : Instr) (t : State) : Prop :=
  (Completes s i ∧ NothingRecorded t) ∨ ∃ e, ErrorCause s i e ∧ Recorded e t

theorem resolve_reports (s : State) : ∃ t, exec .resolve s = .next t ∧ Reports s .resolve t := by
  by_cases hc : CodeResolves s s.code
  · exact ⟨_, exec_resolve_ok hc, .inl ⟨hc, nothingRecorded_completeOk _⟩⟩
  · exact ⟨_, exec_resolve_outOfRange hc, .inr ⟨_, .code hc, recorded_raiseError _ _⟩⟩

theorem offset_reports (s : State) : ∃ t, exec .offset s = .next t ∧ Reports s .offset t := by
  by_cases hv : s.coordV.toNat < s.gridV.toNat
  · exact ⟨_, exec_offset_ok hv, .inl ⟨hv, nothingRecorded_completeOk _⟩⟩
  · exact ⟨_, exec_offset_outOfRange (Nat.not_lt.1 hv), .inr ⟨_, .row (Nat.not_lt.1 hv), recorded_raiseError _ _⟩⟩

theorem decode_reports (s : State) : ∃ t, exec .decode s = .next t ∧ Reports s .decode t := by
  have hlen : s.srcLen.toNat = 196 ↔ s.srcLen = 196#16 := (BitVec.toNat_inj (y := 196#16))
  rcases exec_decode_cases s with ⟨hl, hx⟩ | ⟨hl, hm, hx⟩ | ⟨hl, hm, k, hk, hr, hn, hx⟩ | ⟨hl, hm, hr, hx⟩
  · exact ⟨_, hx, .inr ⟨_, .length (mt hlen.2 hl), recorded_raiseError _ _⟩⟩
  · exact ⟨_, hx, .inr ⟨_, .record (hlen.1 hl) hm, recorded_raiseError _ _⟩⟩
  · exact ⟨_, hx, .inr ⟨_, .cell k (hlen.1 hl) hm hk hr hn, recorded_raiseError _ _⟩⟩
  · exact ⟨_, hx, .inl ⟨⟨hlen.1 hl, hm, hr⟩, nothingRecorded_completeOk _⟩⟩

theorem render_reports (s : State) : ∃ t, exec .render s = .next t ∧ Reports s .render t := by
  by_cases hL : AreaLegal s
  · by_cases hp : AreaPasses s
    · obtain ⟨g, -, hx⟩ := exec_render_of_passes hL ((forall_blocks_pass_iff hL).2 hp)
      exact ⟨_, hx, .inl ⟨⟨hL, hp⟩, nothingRecorded_finishRender _ _⟩⟩
    · obtain ⟨i, j, hi, hj, hbefore, hfails⟩ := exists_first_failing_block hp
      obtain ⟨e, hb⟩ := exists_blockFails (mt (area_blockPasses_iff hL _ _).1 hfails)
      exact ⟨_, exec_render_first_failing_block hL hi hj hbefore hb,
        .inr ⟨e, .block i j hL hi hj hbefore hb, recorded_raiseError _ _⟩⟩
  · exact ⟨_, exec_render_illegal hL, .inr ⟨_, .area hL, recorded_raiseError _ _⟩⟩

/-- Every operation completes without an error and records none, or records one of its causes. -/
theorem exec_reports {i : Instr} {s t : State} (h : exec i s = .next t) : Reports s i t := by
  have hall : ∃ t, exec i s = .next t ∧ Reports s i t := by
    cases i with
    | resolve => exact resolve_reports s
    | offset => exact offset_reports s
    | decode => exact decode_reports s
    | render => exact render_reports s
  obtain ⟨t', hx, hr⟩ := hall
  obtain rfl := Host.Outcome.next.inj (hx.symm.trans h)
  exact hr

theorem errKind_eq_zero_iff {i : Instr} {s t : State} (h : exec i s = .next t) : t.errKind = 0#8 ↔ Completes s i := by
  rcases exec_reports h with ⟨hc, hn⟩ | ⟨e, hcause, hr⟩
  · exact iff_of_true hn.kind hc
  · exact iff_of_false hr.kind_ne_zero hcause.not_completes

theorem exists_cause_of_errKind_ne_zero {i : Instr} {s t : State} (h : exec i s = .next t) (hk : t.errKind ≠ 0#8) :
    ∃ e, ErrorCause s i e ∧ Recorded e t := by
  rcases exec_reports h with ⟨-, hn⟩ | hcause
  · exact absurd hn.kind hk
  · exact hcause

/-! `RENDER` inside the grid -/

/-- A full look-up buffer resolves every code (70_reset_and_hazards.md R146). -/
theorem codeResolves_of_full {s : State} (h : 131072 ≤ s.lut.len.toNat) (code : BitVec 16) : CodeResolves s code := by
  have := code.isLt
  unfold CodeResolves
  omega

/-- The block index of a block in a grid of `gh` columns and `gv` rows (42_block_index.md R94). -/
theorem blockIndex_lt {rh rv gh gv : Nat} (hh : rh < gh) (hv : rv < gv) : rh * gv + rv < gh * gv :=
  calc rh * gv + rv
    _ < (rh + 1) * gv := by rw [Nat.succ_mul]; omega
    _ ≤ gh * gv := Nat.mul_le_mul_right gv hh

/-- The record of a block inside the grid lies in the first `196 × GRID_H × GRID_V` bytes (70_reset_and_hazards.md
R146). -/
theorem recordOffset_add_le {s : State} {rh rv : Nat} (hh : rh < s.gridH.toNat) (hv : rv < s.gridV.toNat) :
    recordOffset s rh rv + 196 ≤ 196 * s.gridH.toNat * s.gridV.toNat := by
  rw [Nat.mul_assoc]
  exact mul_index_add_le 196 (blockIndex_lt hh hv)

theorem areaPasses_of_inside {s : State} (hboot : BootReady s) (hin : AreaInsideGrid s) : AreaPasses s := by
  obtain ⟨hlut, hmap⟩ := hboot
  obtain ⟨hh, hv⟩ := hin
  intro j hj i hi
  have hcol : s.startH.toNat + i < s.gridH.toNat := by omega
  have hrow : s.startV.toNat + j < s.gridV.toNat := by omega
  exact ⟨hrow, (recordOffset_add_le hcol hrow).trans hmap, fun _ _ => codeResolves_of_full hlut _⟩

/-- Settles O37: every block inside the grid passes its checks, so the loop of `RENDER` is done. -/
theorem renderInsideGridRaisesNoError : Obligations.RenderInsideGridRaisesNoError := by
  intro s hboot hin hL
  obtain ⟨g, -, hx⟩ := exec_render_of_passes hL ((forall_blocks_pass_iff hL).2 (areaPasses_of_inside hboot hin))
  exact ⟨_, hx, finishRender_flag _ _ _, finishRender_errKind _ _, finishRender_flag _ _ _⟩

/-! Which operation raises which kind -/

/-- An area of one block at the origin of a grid of one row, with empty buffers. -/
def oneBlockArea : State := { State.reset with gridV := 1#16, sizeH := 1#16, sizeV := 1#16 }

/-- Settles O40: a kind by cases over the causes, each "yes" of R122 by a run from a small state. -/
theorem kindsPerOperation : Obligations.KindsPerOperation := by
  refine ⟨fun i s t h => ?_, ?_, fun s w rest why hp hw => ⟨_, step_reserved hp hw, raiseError_errKind _ _⟩⟩
  · rcases exec_reports h with ⟨-, hn⟩ | ⟨e, hcause, hr⟩
    · cases i <;> exact .inl hn.kind
    · cases hcause with
      | code | row => exact .inr hr.kind
      | length | cell => exact .inr (.inl hr.kind)
      | record => exact .inr (.inr hr.kind)
      | area => exact .inr (.inr (.inr (.inr hr.kind)))
      | block i j _ _ _ _ hb =>
        cases hb with
        | row => exact .inr (.inl hr.kind)
        | record => exact .inr (.inr (.inr (.inl hr.kind)))
        | code => exact .inr (.inr (.inl hr.kind))
  · simp only [List.forall_mem_cons]
    exact ⟨⟨State.reset, _, rfl, rfl⟩,
      ⟨State.reset, _, rfl, rfl⟩,
      ⟨State.reset, _, rfl, rfl⟩,
      ⟨{ State.reset with srcLen := 196#16 }, _, rfl, rfl⟩,
      ⟨{ oneBlockArea with gridV := 0#16 }, _, rfl, rfl⟩,
      ⟨{ oneBlockArea with map := { len := 196#64, cells := [] } }, _, rfl, rfl⟩,
      ⟨oneBlockArea, _, rfl, rfl⟩,
      ⟨State.reset, _, rfl, rfl⟩, List.forall_mem_nil _⟩

/-! The rows of R123 -/

/-- Without an error, and after `Illegal`, the registers beside `ERR_KIND` hold 0 (60_exceptions.md R123, R127). -/
theorem errRegs_zero_of_exec {i : Instr} {s t : State} (h : exec i s = .next t) (hk : t.errKind = 0#8 ∨ t.errKind = 4#8) :
    t.errH = 0#32 ∧ t.errV = 0#32 ∧ t.errOff = 0#64 ∧ t.errCode = 0#16 := by
  rcases exec_reports h with ⟨-, hn⟩ | ⟨e, hcause, hr⟩
  · exact ⟨hn.h, hn.v, hn.off, hn.code⟩
  · obtain rfl := hcause.illegal (hr.kind_eq_four.1 (hk.resolve_left hr.kind_ne_zero))
    exact ⟨hr.h, hr.v, hr.off, hr.code⟩

/-- The four registers after a failed `RESOLVE` (60_exceptions.md R123). -/
theorem errRegs_of_resolve {s t : State} (h : exec .resolve s = .next t) (hk : t.errKind ≠ 0#8) :
    t.errKind = 1#8 ∧ t.errH = 0#32 ∧ t.errV = 0#32 ∧ t.errOff.toNat = 2 * s.code.toNat ∧ t.errCode = s.code := by
  obtain ⟨e, hcause, hr⟩ := exists_cause_of_errKind_ne_zero h hk
  cases hcause with
  | code hn =>
    have := s.code.isLt
    exact ⟨hr.kind, hr.h, hr.v, hr.off_toNat (by dsimp only; omega), hr.code⟩

/-- The four registers after a failed `OFFSET` (60_exceptions.md R123). -/
theorem errRegs_of_offset {s t : State} (h : exec .offset s = .next t) (hk : t.errKind ≠ 0#8) :
    t.errKind = 1#8 ∧ t.errH.toNat = s.coordH.toNat ∧ t.errV.toNat = s.coordV.toNat ∧ t.errOff = 0#64 ∧
      t.errCode = 0#16 := by
  obtain ⟨e, hcause, hr⟩ := exists_cause_of_errKind_ne_zero h hk
  cases hcause with
  | row hv =>
    obtain ⟨hh, hv⟩ := hr.coord_toNat (s.coordH.isLt.trans (by decide)) (s.coordV.isLt.trans (by decide))
    exact ⟨hr.kind, hh, hv, hr.off, hr.code⟩

/-- The first cell of a record whose code does not resolve is one cell (43_block_decoder.md R103). -/
theorem first_unresolved_unique {s : State} {base k k' : Nat} (hr : CellsResolve s base k)
    (hn : ¬ CodeResolves s (cellCode s base k)) (hr' : CellsResolve s base k')
    (hn' : ¬ CodeResolves s (cellCode s base k')) : k' = k :=
  Nat.le_antisymm (Nat.le_of_not_lt fun hlt => hn (hr' k hlt)) (Nat.le_of_not_lt fun hlt => hn' (hr k' hlt))

/-- Code 0 fails to resolve only in a look-up buffer without a whole word (60_exceptions.md R123). -/
theorem lut_lt_two_of_zero_unresolved {s : State} (h : ¬ CodeResolves s 0#16) : s.lut.len.toNat < 2 := Nat.lt_of_not_le h

/-- The rows of `DECODE` in 60_exceptions.md R123. -/
theorem errRegs_of_decode {s t : State} (h : exec .decode s = .next t) :
    t.errH = 0#32 ∧ t.errV = 0#32 ∧ (t.errKind ≠ 0#8 → t.errOff = s.srcOff) ∧
    (s.srcLen ≠ 196#16 → t.errKind = 2#8 ∧ t.errCode = 0#16) ∧
    (s.srcLen = 196#16 → s.map.len.toNat < s.srcOff.toNat + 196 → t.errKind = 3#8 ∧ t.errCode = 0#16) ∧
    (s.srcLen = 196#16 → s.srcOff.toNat + 196 ≤ s.map.len.toNat →
      (CellsResolve s s.srcOff.toNat 64 → t.errKind = 0#8) ∧
      ∀ k, k < 64 → CellsResolve s s.srcOff.toNat k → ¬ CodeResolves s (cellCode s s.srcOff.toNat k) →
        t.errKind = 2#8 ∧ t.errCode = cellCode s s.srcOff.toNat k) ∧
    (t.errKind = 2#8 → t.errCode = 0#16 → s.srcLen = 196#16 → s.lut.len.toNat < 2) := by
  have hoff {e : ErrorInfo} (hr : Recorded e t) (he : e.off = s.srcOff.toNat) : t.errOff = s.srcOff := by
    rw [hr.off, he, BitVec.ofNat_toNat, BitVec.setWidth_eq]
  rcases exec_reports h with ⟨⟨hl, hm, hall⟩, hn⟩ | ⟨e, hcause, hr⟩
  · refine ⟨hn.h, hn.v, fun hk => absurd hn.kind hk, fun hl' => absurd hl hl', fun _ hm' => absurd hm hm'.not_ge,
      fun _ _ => ⟨fun _ => hn.kind, fun k hk _ hnk => absurd (hall k hk) hnk⟩, fun hk => ?_⟩
    have hne : (0#8 : BitVec 8) ≠ 2#8 := by decide
    exact absurd (hn.kind.symm.trans hk) hne
  · cases hcause with
    | length hl =>
      exact ⟨hr.h, hr.v, fun _ => hoff hr rfl, fun _ => ⟨hr.kind, hr.code⟩, fun hl' => absurd hl' hl,
        fun hl' => absurd hl' hl, fun _ _ hl' => absurd hl' hl⟩
    | record hl hm =>
      refine ⟨hr.h, hr.v, fun _ => hoff hr rfl, fun hl' => absurd hl hl', fun _ _ => ⟨hr.kind, hr.code⟩,
        fun _ hm' => absurd hm' hm.not_ge, fun hk => ?_⟩
      have hne : (3#8 : BitVec 8) ≠ 2#8 := by decide
      exact absurd (hr.kind.symm.trans hk) hne
    | cell k hl hm hk hrk hnk =>
      refine ⟨hr.h, hr.v, fun _ => hoff hr rfl, fun hl' => absurd hl hl', fun _ hm' => absurd hm hm'.not_ge,
        fun _ _ => ⟨fun hall => absurd (hall k hk) hnk, fun k' _ hrk' hnk' => ?_⟩, fun _ hcode _ => ?_⟩
      · rw [first_unresolved_unique hrk hnk hrk' hnk']
        exact ⟨hr.kind, hr.code⟩
      · exact lut_lt_two_of_zero_unresolved ((hr.code.symm.trans hcode) ▸ hnk)

/-- The offset of a record that `RENDER` checks fits `ERR_OFF`, inside `MAP` or not. -/
theorem recordOffset_lt {s : State} {rh rv : Nat} (hh : rh < 2 ^ 17) (hv : rv < s.gridV.toNat) :
    recordOffset s rh rv < 2 ^ 64 := by
  have hindex : rh * s.gridV.toNat + rv < 2 ^ 33 :=
    calc rh * s.gridV.toNat + rv
      _ < 2 ^ 17 * s.gridV.toNat := blockIndex_lt hh hv
      _ ≤ 2 ^ 17 * 2 ^ 16 := Nat.mul_le_mul_left _ s.gridV.isLt.le
      _ = 2 ^ 33 := by norm_num
  unfold recordOffset
  omega

/-- A block that fails is recorded with its own coordinate (60_exceptions.md R123). -/
theorem BlockFails.coord {s : State} {p : Area} {rh rv : Nat} {e : ErrorInfo} (h : BlockFails s p (rh, rv) e) :
    rh = e.h ∧ rv = e.v := by
  cases h <;> exact ⟨rfl, rfl⟩

/-- The rows of the blocks of `RENDER` in 60_exceptions.md R123: what the registers hold after the failure of the block
(rh, rv). -/
theorem errRegs_of_blockFails {s t : State} {rh rv : Nat} {e : ErrorInfo} (hL : AreaLegal s)
    (hb : BlockFails s s.area (rh, rv) e) (hr : Recorded e t) (hh : rh < 2 ^ 17) (hv : rv < 2 ^ 17) :
    t.errH.toNat = rh ∧ t.errV.toNat = rv ∧
    ((s.gridV.toNat ≤ rv ∧ t.errKind = 1#8 ∧ t.errOff = 0#64 ∧ t.errCode = 0#16) ∨
      (rv < s.gridV.toNat ∧ s.map.len.toNat < recordOffset s rh rv + 196 ∧
        t.errKind = 3#8 ∧ t.errOff.toNat = recordOffset s rh rv ∧ t.errCode = 0#16) ∨
      (rv < s.gridV.toNat ∧ recordOffset s rh rv + 196 ≤ s.map.len.toNat ∧ t.errKind = 2#8 ∧
        t.errOff.toNat = recordOffset s rh rv ∧
        ∃ k, k < 64 ∧ CellsResolve s (recordOffset s rh rv) k ∧
          ¬ CodeResolves s (cellCode s (recordOffset s rh rv) k) ∧
          t.errCode = cellCode s (recordOffset s rh rv) k)) := by
  rw [← area_offset_eq hL]
  have hoff (hrow : rv < s.gridV.toNat) : s.area.bs * (rh * s.area.gv + rv) < 2 ^ 64 :=
    area_offset_eq hL rh rv ▸ recordOffset_lt hh hrow
  have hcoord : t.errH.toNat = rh ∧ t.errV.toNat = rv := by
    obtain ⟨rfl, rfl⟩ := hb.coord
    exact hr.coord_toNat (hh.trans (by decide)) (hv.trans (by decide))
  refine ⟨hcoord.1, hcoord.2, ?_⟩
  cases hb with
  | row hrow => exact .inl ⟨hrow, hr.kind, hr.off, hr.code⟩
  | record hrow hm => exact .inr (.inl ⟨hrow, hm, hr.kind, hr.off_toNat (hoff hrow), hr.code⟩)
  | code k hrow hm hk hrk hnk =>
    exact .inr (.inr ⟨hrow, hm, hr.kind, hr.off_toNat (hoff hrow), k, hk, hrk, hnk, hr.code⟩)

/-- `RENDER` raises `Illegal` exactly on an illegal area (44_area_renderer.md R116). -/
theorem errKind_eq_four_iff_of_render {s t : State} (h : exec .render s = .next t) :
    t.errKind = 4#8 ↔ ¬ AreaLegal s := by
  rcases exec_reports h with ⟨⟨hL, -⟩, hn⟩ | ⟨e, hcause, hr⟩
  · rw [hn.kind]
    exact iff_of_false (by decide) (not_not_intro hL)
  · rw [hr.kind_eq_four]
    cases hcause with
    | area hL => exact iff_of_true rfl hL
    | block i j hL _ _ _ hb => exact iff_of_false hb.kind_ne_illegal (not_not_intro hL)

/-- A `RENDER` of a legal area that fails does so at a block all of whose predecessors pass (60_exceptions.md R124). -/
theorem exists_block_of_render_error {s t : State} (h : exec .render s = .next t) (h0 : t.errKind ≠ 0#8)
    (h4 : t.errKind ≠ 4#8) :
    ∃ i j e, AreaLegal s ∧ i < s.sizeH.toNat ∧ j < s.sizeV.toNat ∧ PassesBefore s i j ∧
      BlockFails s s.area (s.startH.toNat + i, s.startV.toNat + j) e ∧ Recorded e t := by
  obtain ⟨e, hcause, hr⟩ := exists_cause_of_errKind_ne_zero h h0
  cases hcause with
  | area hL => exact absurd hr.kind h4
  | block i j hL hi hj hbefore hb => exact ⟨i, j, e, hL, hi, hj, hbefore, hb, hr⟩

/-- Settles O41: each row by the cause that the registers record. -/
theorem errorRegistersDescribeLastCommand : Obligations.ErrorRegistersDescribeLastCommand := by
  refine ⟨fun i s t h => errRegs_zero_of_exec h, fun s t h => ⟨errKind_eq_zero_iff h, errRegs_of_resolve h⟩,
    fun s t h => ⟨errKind_eq_zero_iff h, errRegs_of_offset h⟩, fun s t h => errRegs_of_decode h,
    fun s t h => ⟨errKind_eq_four_iff_of_render h, errKind_eq_zero_iff h, fun h0 h4 => ?_⟩, fun w why s t hw h => ?_⟩
  · obtain ⟨i, j, e, hL, hi, hj, hbefore, hb, hr⟩ := exists_block_of_render_error h h0 h4
    have hcol : s.startH.toNat + i < 2 ^ 17 := by omega
    have hrow : s.startV.toNat + j < 2 ^ 17 := by omega
    exact ⟨i, j, hi, hj, hbefore, errRegs_of_blockFails hL hb hr hcol hrow⟩
  · obtain rfl := Host.Outcome.next.inj ((runCommand_reserved hw s).symm.trans h)
    exact ⟨rfl, rfl, rfl, rfl, rfl⟩

end Sys2Proof.Machine

/-! The reset and the launch parameters of 70_reset_and_hazards.md. -/

namespace Sys2Proof.Machine

/-! Commands without set-up -/

/-- With `GRID_V` 0 no row is inside the grid. -/
theorem gridV_le_of_eq_zero {s : State} (h : s.gridV = 0#16) (v : Nat) : s.gridV.toNat ≤ v := by
  rw [h]
  exact Nat.zero_le v

/-- `OFFSET` without a grid height raises `OutOfRange` (70_reset_and_hazards.md R142). -/
theorem exec_offset_of_gridV_zero {s : State} (h : s.gridV = 0#16) :
    ∃ t, exec .offset s = .next t ∧ t.errKind = 1#8 :=
  ⟨_, exec_offset_outOfRange (gridV_le_of_eq_zero h _), raiseError_errKind _ _⟩

/-- `RENDER` without a grid height raises `Illegal` on an illegal area, and on a legal one `OutOfRange` at the first
block it visits (70_reset_and_hazards.md R142). -/
theorem exec_render_of_gridV_zero {s : State} (h : s.gridV = 0#16) :
    ∃ t, exec .render s = .next t ∧ (t.errKind = 1#8 ∨ t.errKind = 4#8) := by
  by_cases hL : AreaLegal s
  · obtain ⟨hw, hh, -⟩ := id hL
    have hw : 0 < s.sizeH.toNat := Nat.pos_of_ne_zero (BitVec.toNat_ne.1 hw)
    have hh : 0 < s.sizeV.toNat := Nat.pos_of_ne_zero (BitVec.toNat_ne.1 hh)
    have hbefore : PassesBefore s 0 0 :=
      ⟨fun _ hj => absurd hj (Nat.not_lt_zero _), fun _ hi => absurd hi (Nat.not_lt_zero _)⟩
    have hrow : BlockFails s s.area (s.startH.toNat + 0, s.startV.toNat + 0) _ := .row (gridV_le_of_eq_zero h _)
    exact ⟨_, exec_render_first_failing_block hL hw hh hbefore hrow, .inl (raiseError_errKind _ _)⟩
  · exact ⟨_, exec_render_illegal hL, .inr (raiseError_errKind _ _)⟩

/-- `DECODE` without a source length raises `MalformedBlock` (70_reset_and_hazards.md R142). -/
theorem exec_decode_of_srcLen_zero {s : State} (h : s.srcLen = 0#16) :
    ∃ t, exec .decode s = .next t ∧ t.errKind = 2#8 := by
  obtain ⟨t, hx, -⟩ := decode_reports s
  obtain ⟨-, -, -, hlength, -⟩ := errRegs_of_decode hx
  obtain ⟨hkind, -⟩ := hlength (by rw [h]; decide)
  exact ⟨t, hx, hkind⟩

/-! The input buffers -/

/-- `t` has the input buffers of `s` (70_reset_and_hazards.md R144). -/
structure SameBuffers (s t : State) : Prop where
  lut : t.lut = s.lut
  map : t.map = s.map

theorem Effect.apply_sameBuffers (f : Effect) (s : State) : SameBuffers s (f.apply s) := by
  cases f <;> exact ⟨rfl, rfl⟩

theorem storeReg_sameBuffers (r : Reg) (v : BusValue) (s : State) : SameBuffers s (storeReg r v s) := by
  cases r <;> exact ⟨rfl, rfl⟩

theorem answerReg_sameBuffers (r : Reg) (s : State) : SameBuffers s (answerReg r s) := by
  cases r with
  | blk i => simp only [answerReg]; split_ifs <;> exact ⟨rfl, rfl⟩
  | _ => exact ⟨rfl, rfl⟩

theorem gridRead_sameBuffers {g : Grid} {a : Nat} {s t : State} (h : gridRead g a s = .next t) : SameBuffers s t := by
  unfold gridRead at h
  split at h <;> cases h <;> exact ⟨rfl, rfl⟩

/-- A register write that is served is a store, or the store of `CMD` and then the effect of a command (10_state.md R29,
R40). -/
theorem regWrite_cases {n : Nat} {v : BusValue} {s t : State} (h : regWrite n v s = .next t) :
    (∃ r, t = storeReg r v s) ∨
      ∃ f : Effect, HasEffect (storeReg .cmd v s) (decodeCommand (v.setWidth 32)) f ∧
        t = f.apply (storeReg .cmd v s) := by
  by_cases hn : n = 13
  · subst hn
    have hr : regOfIndex 13 = some .cmd := rfl
    by_cases hv : v.toNat < 2 ^ regWidth .cmd
    · exact .inr (hasEffect_of_runCommand ((regWrite_runCommand s hr hv).symm.trans h))
    · simp only [regWrite, hr, if_neg (mt valueFits_iff.1 hv), reduceCtorEq] at h
  · exact .inl (eq_storeReg_of_regWrite hn h)

/-- No host event changes an input buffer, a command and a hardware reset included (70_reset_and_hazards.md R144). -/
theorem serve_sameBuffers {e : HostEvent} {s t : State} (h : serve e s = .next t) : SameBuffers s t := by
  cases e with
  | regRead n =>
    simp only [serve, regRead] at h
    split at h <;> cases h
    exact answerReg_sameBuffers _ s
  | regWrite n v =>
    have hstore := storeReg_sameBuffers .cmd v s
    rcases regWrite_cases h with ⟨r, rfl⟩ | ⟨f, -, rfl⟩
    · exact storeReg_sameBuffers r v s
    · have hcommand := f.apply_sameBuffers (storeReg .cmd v s)
      exact ⟨hcommand.lut.trans hstore.lut, hcommand.map.trans hstore.map⟩
  | gridRead g a => exact gridRead_sameBuffers h
  | hardwareReset =>
    cases h
    exact ⟨rfl, rfl⟩

theorem step_sameBuffers {s t : State} (h : step s = .next t) : SameBuffers s t := by
  cases hp : s.pending with
  | nil =>
    obtain rfl := Host.Outcome.next.inj ((step_nil hp).symm.trans h)
    exact ⟨rfl, rfl⟩
  | cons e rest =>
    obtain ⟨hlut, hmap⟩ := serve_sameBuffers ((step_cons hp).symm.trans h)
    exact ⟨hlut, hmap⟩

/-! The obligations -/

/-- Settles O17: the reset values by evaluation, the failures by the operand each command lacks, and `RESOLVE` because
code 0 reads the first two bytes of `LUT`. -/
theorem resetValuesFailSafely : Obligations.ResetValuesFailSafely := by
  intro lut map script s
  refine ⟨?resetValues, fun _ => exec_offset_of_gridV_zero, fun _ => exec_render_of_gridV_zero,
    fun _ => exec_decode_of_srcLen_zero, fun hlut => ?resolveZero⟩
  case resetValues => and_intros <;> rfl
  case resolveZero =>
    have hcode : CodeResolves s s.code := hlut
    exact ⟨_, exec_resolve_ok hcode, completeOk_errKind _, completeOk_resRgb _⟩

/-- Settles O50: no host event changes a buffer, and what a length or a byte of a buffer reads as is decided by it. -/
theorem launchParametersNeverChange : Obligations.LaunchParametersNeverChange := by
  intro s t h
  obtain ⟨hlut, hmap⟩ := step_sameBuffers h
  refine ⟨hlut, hmap, congrArg Buffer.len hlut, congrArg Buffer.len hmap, fun a => ?_, fun a => ?_, rfl⟩
  · simp only [State.byteAt, hlut]
  · simp only [State.byteAt, hmap]

end Sys2Proof.Machine

/-! Serving a host event (10_state.md R40): which events are served, and what serving one does to the state. -/

namespace Sys2Proof.Machine

/-! The events that are served -/

theorem HostEvent.wf_regRead {n : Nat} : (HostEvent.regRead n).wf = true ↔ ∃ r, regOfIndex n = some r := by
  simp [HostEvent.wf, HostEvent.indexNamed, HostEvent.valueOk, Option.isSome_iff_exists]

/-- A write has a meaning when its index names a register and its value fits it (10_state.md R40). -/
theorem HostEvent.wf_regWrite {n : Nat} {v : BusValue} :
    (HostEvent.regWrite n v).wf = true ↔ ∃ r, regOfIndex n = some r ∧ v.toNat < 2 ^ regWidth r := by
  cases hr : regOfIndex n with
  | none => simp [HostEvent.wf, HostEvent.indexNamed, hr]
  | some r => simp [HostEvent.wf, HostEvent.indexNamed, HostEvent.valueOk, hr, valueFits_iff]

theorem regRead_answerReg {n : Nat} {r : Reg} (s : State) (hr : regOfIndex n = some r) :
    regRead n s = .next (answerReg r s) := by
  simp only [regRead, hr]

/-- Every command word has a next state. -/
theorem runCommand_next (w : BitVec 32) (s : State) : ∃ t, runCommand w s = .next t := by
  obtain ⟨f, -, hx⟩ := runCommand_effect w s
  exact ⟨_, hx s (.refl s)⟩

theorem regWrite_next {n : Nat} {r : Reg} {v : BusValue} (s : State) (hr : regOfIndex n = some r)
    (hv : v.toNat < 2 ^ regWidth r) : ∃ t, regWrite n v s = .next t := by
  by_cases hc : r = .cmd
  · subst hc
    rw [regWrite_runCommand s hr hv]
    exact runCommand_next _ _
  · exact ⟨_, regWrite_storeReg s hr hc hv⟩

/-- A read of a grid answers one value, and may draw a free one (70_reset_and_hazards.md R149). -/
theorem gridRead_next (g : Grid) (a : Nat) (s : State) :
    ∃ value count, gridRead g a s = .next { s with answers := value :: s.answers, freeCount := count } := by
  unfold gridRead
  split <;> exact ⟨_, _, rfl⟩

/-- A grid byte with a specified value is answered while `OUT_VALID` is 1 (20_memory.md R46). -/
theorem gridRead_byte {g : Grid} {a : Nat} {s : State} {b : Byte} (hvalid : s.flag .outValid = true)
    (hb : Memory.read (s.grid g) a = some b) : gridRead g a s = .next (answer (b.setWidth 64) s) := by
  simp only [gridRead, hvalid, hb]

/-- Otherwise a free value is answered (70_reset_and_hazards.md R149). -/
theorem gridRead_free {g : Grid} {a : Nat} {s : State} (h : s.flag .outValid = false ∨ Memory.read (s.grid g) a = none) :
    gridRead g a s = .next (answer ((Config.freeByte s.freeCount).setWidth 64) (drawFree s)) := by
  rcases h with h | h
  · simp only [gridRead, h]
  · cases hvalid : s.flag .outValid <;> simp only [gridRead, hvalid, h]

/-- A read of a register answers one value, and may draw a free one (10_state.md R40, 70_reset_and_hazards.md R149). -/
theorem answerReg_eq (r : Reg) (s : State) :
    ∃ value count, answerReg r s = { s with answers := value :: s.answers, freeCount := count } := by
  cases r with
  | blk i => unfold answerReg; dsimp only; split_ifs <;> exact ⟨_, _, rfl⟩
  | _ => exact ⟨_, _, rfl⟩

/-- An event the spec gives a meaning to is served. -/
theorem serve_next_of_wf {e : HostEvent} (s : State) (h : e.wf = true) : ∃ t, serve e s = .next t := by
  cases e with
  | regRead n =>
    obtain ⟨r, hr⟩ := HostEvent.wf_regRead.1 h
    exact ⟨_, regRead_answerReg s hr⟩
  | regWrite n v =>
    obtain ⟨r, hr, hv⟩ := HostEvent.wf_regWrite.1 h
    exact regWrite_next s hr hv
  | gridRead g a =>
    obtain ⟨value, count, hx⟩ := gridRead_next g a s
    exact ⟨_, hx⟩
  | hardwareReset => exact ⟨_, rfl⟩

/-- An event outside the spec is refused (log entry 14). -/
theorem serve_refused_of_not_wf {e : HostEvent} (s : State) (h : ¬ e.wf = true) : ∃ why, serve e s = .refused why := by
  cases e with
  | regRead n =>
    have hr : regOfIndex n = none := Option.eq_none_iff_forall_ne_some.2 fun r hr => h (HostEvent.wf_regRead.2 ⟨r, hr⟩)
    exact ⟨.noSuchRegister n, by simp only [serve, regRead, hr]⟩
  | regWrite n v =>
    cases hr : regOfIndex n with
    | none => exact ⟨.noSuchRegister n, by simp only [serve, regWrite, hr]⟩
    | some r =>
      have hv : ¬ valueFits r v = true := fun hv => h (HostEvent.wf_regWrite.2 ⟨r, hr, valueFits_iff.1 hv⟩)
      exact ⟨.valueTooWide n v, by simp only [serve, regWrite, hr, if_neg hv]⟩
  | gridRead g a => exact absurd rfl h
  | hardwareReset => exact absurd rfl h

/-! What serving an event does -/

/-- The states that serving an event can lead to. -/
inductive Served (s : State) : HostEvent → State → Prop where
  | register (n : Nat) (value : BusValue) (count : Nat) :
    Served s (.regRead n) { s with answers := value :: s.answers, freeCount := count }
  | byte (g : Grid) (a : Nat) (value : BusValue) (count : Nat) :
    Served s (.gridRead g a) { s with answers := value :: s.answers, freeCount := count }
  | store (n : Nat) (v : BusValue) (r : Reg) (hc : r ≠ .cmd) : Served s (.regWrite n v) (storeReg r v s)
  | command (v : BusValue) {t : State} (hv : v.toNat < 2 ^ 32)
    (h : runCommand (v.setWidth 32) { s with cmd := v.setWidth 32 } = .next t) : Served s (.regWrite 13 v) t
  | reset : Served s .hardwareReset (hardwareReset s)

/-- Everything that serving an event can do (10_state.md R40). -/
theorem served_of_serve {e : HostEvent} {s t : State} (h : serve e s = .next t) : Served s e t := by
  have hwf : e.wf = true := by
    by_contra hn
    obtain ⟨why, hx⟩ := serve_refused_of_not_wf s hn
    cases hx.symm.trans h
  cases e with
  | regRead n =>
    obtain ⟨r, hr⟩ := HostEvent.wf_regRead.1 hwf
    obtain ⟨value, count, hx⟩ := answerReg_eq r s
    obtain rfl := Host.Outcome.next.inj ((regRead_answerReg s hr).symm.trans h)
    exact hx ▸ .register n value count
  | regWrite n v =>
    obtain ⟨r, hr, hv⟩ := HostEvent.wf_regWrite.1 hwf
    by_cases hc : r = .cmd
    · subst hc
      obtain rfl : 13 = n := regOfIndex_eq_some.1 hr
      exact .command v hv ((regWrite_runCommand s hr hv).symm.trans h)
    · obtain rfl := Host.Outcome.next.inj ((regWrite_storeReg s hr hc hv).symm.trans h)
      exact .store n v r hc
  | gridRead g a =>
    obtain ⟨value, count, hx⟩ := gridRead_next g a s
    obtain rfl := Host.Outcome.next.inj (hx.symm.trans h)
    exact .byte g a value count
  | hardwareReset =>
    obtain rfl := Host.Outcome.next.inj h
    exact .reset

theorem storeReg_cmd {r : Reg} (v : BusValue) (s : State) (hc : r ≠ .cmd) : (storeReg r v s).cmd = s.cmd := by
  cases r with
  | cmd => exact absurd rfl hc
  | _ => rfl

/-- A store writes its register alone. -/
theorem readReg_storeReg_of_ne {r r' : Reg} (v : BusValue) (s : State) (h : r' ≠ r) :
    readReg (storeReg r v s) r' = readReg s r' := by
  cases r <;> cases r' <;> simp only [ne_eq, reduceCtorEq, not_false_eq_true, not_true_eq_false] at h <;> rfl

theorem storeReg_byteAt (r : Reg) (v : BusValue) (s : State) (sp : Space) (a : Nat) :
    (storeReg r v s).byteAt sp a = s.byteAt sp a := by
  cases r <;> rfl

/-- What a store leaves of the host's own fields. -/
theorem storeReg_host (r : Reg) (v : BusValue) (s : State) :
    (storeReg r v s).pending = s.pending ∧ (storeReg r v s).answers = s.answers ∧
      (storeReg r v s).freeCount = s.freeCount := by
  cases r <;> exact ⟨rfl, rfl, rfl⟩

/-- Taking an event and storing a register do not touch each other. -/
theorem storeReg_withPending (r : Reg) (v : BusValue) (s : State) (rest : List HostEvent) :
    storeReg r v { s with pending := rest } = { storeReg r v s with pending := rest } := by
  cases r <;> rfl

/-- The step that takes the write of an operation's word to `CMD` (10_state.md R29). -/
theorem step_command {s : State} {i : Instr} {rest : List HostEvent}
    (hp : s.pending = .regWrite 13 ((encode i).setWidth 64) :: rest) :
    step s = exec i { s with pending := rest, cmd := encode i } := by
  rw [step_cons hp, serve, regWrite_cmd, runCommand_instr (decodeCommand_encode i)]

/-- The step that takes a fitting write to a register other than `CMD` (10_state.md R40). -/
theorem step_store {s : State} {n : Nat} {r : Reg} {v : BusValue} {rest : List HostEvent}
    (hp : s.pending = .regWrite n v :: rest) (hr : regOfIndex n = some r) (hc : r ≠ .cmd)
    (hv : v.toNat < 2 ^ regWidth r) : step s = .next { storeReg r v s with pending := rest } := by
  rw [step_cons hp, serve, regWrite_storeReg _ hr hc hv, storeReg_withPending]

/-! A hardware reset -/

theorem getFlag_zero (f : Flag) : getFlag 0#32 f = false := BitVec.getLsbD_zero

theorem freeBlk_getElem (draw : Nat) (i : Fin 64) : (freeBlk draw)[i] = Config.freeEntry draw i.val := by
  unfold freeBlk
  simp

/-- The registers of indices 0 to 23 other than `BLOCK_SIZE` and `TILE_DIM` are 0 after a hardware reset (10_state.md
R44). -/
theorem readReg_hardwareReset {r : Reg} (s : State) (hi : regIndex r < 24) (hb : r ≠ .blockSize) (hd : r ≠ .tileDim) :
    readReg (hardwareReset s) r = 0#64 := by
  cases r with
  | blockSize => exact absurd rfl hb
  | tileDim => exact absurd rfl hd
  | lutLen | mapLen => exact absurd hi (by decide)
  | blk i => simp only [regIndex] at hi; omega
  | _ => rfl

/-! The obligations -/

/-- Settles O2: an operation's word decodes to it, and the two fields the decoder checks are the whole word. -/
theorem decodeInvertsEncode : Obligations.DecodeInvertsEncode := fun _ _ => decodeCommand_eq_instr

/-- Settles O1: by evaluation of the decoder on the nine words. -/
theorem tableWordsDecode : Obligations.TableWordsDecode := by
  and_intros <;> rfl

/-- Settles O6: a command keeps `CMD` because every effect does; the host events by what serving them does. -/
theorem cmdKeepsLastWord : Obligations.CmdKeepsLastWord := by
  have hcommand {w : BitVec 32} {s t : State} (h : runCommand w s = .next t) : t.cmd = s.cmd := by
    obtain ⟨f, -, rfl⟩ := hasEffect_of_runCommand h
    exact f.apply_cmd s
  refine ⟨rfl, fun s rest hp => ⟨_, step_cons hp, rfl⟩, fun s w rest hp => ?write,
    fun s t e rest hp hr hc h => ?other, fun s rest hp => ?read, fun i s t h => ?exec⟩
  case write =>
    obtain ⟨t, hx⟩ := runCommand_next w { s with pending := rest, cmd := w }
    refine ⟨t, ?_, hcommand hx⟩
    rw [step_cons hp, serve, regWrite_cmd, hx]
  case other =>
    cases served_of_serve ((step_cons hp).symm.trans h) with
    | register | byte => rfl
    | store n v r hcmd => exact storeReg_cmd v _ hcmd
    | command v => exact absurd rfl (hc v)
    | reset => exact absurd rfl hr
  case read =>
    rw [step_cons hp, serve, regRead_answerReg _ (r := .cmd) rfl]
    rfl
  case exec => exact hcommand ((runCommand_instr (decodeCommand_encode i) s).trans h)

/-- Settles O12: the step is the store, which writes its register alone. -/
theorem regWriteStoresOnly : Obligations.RegWriteStoresOnly := by
  intro s n r v rest hp hr ha hc hv
  rw [step_cons hp, serve, regWrite_storeReg _ hr hc hv]
  obtain ⟨hpending, hanswers, hcount⟩ := storeReg_host r v { s with pending := rest }
  refine ⟨_, rfl, readReg_storeReg_same _ ha hv, fun r' hne => ?_, fun sp a => ?_, hpending, hanswers, hcount⟩
  · rw [readReg_storeReg_of_ne v _ hne]
    cases r' <;> rfl
  · rw [storeReg_byteAt]
    cases sp <;> rfl

/-- Settles O13: an event inside the spec is served, an event outside it refused. -/
theorem refusesExactlyOutsideAccesses : Obligations.RefusesExactlyOutsideAccesses := by
  intro s
  constructor
  · rintro ⟨why, h⟩
    cases hp : s.pending with
    | nil => cases (step_nil hp).symm.trans h
    | cons e rest =>
      refine ⟨e, rest, rfl, Bool.eq_false_iff.2 fun hwf => ?_⟩
      obtain ⟨t, hx⟩ := serve_next_of_wf { s with pending := rest } hwf
      cases hx.symm.trans ((step_cons hp).symm.trans h)
  · rintro ⟨e, rest, hp, hwf⟩
    rw [step_cons hp]
    exact serve_refused_of_not_wf _ (Bool.eq_false_iff.1 hwf)

/-- Settles O14: the first step is the store, which leaves the command as the next event. -/
theorem writtenOperandSeenByNextCommand : Obligations.WrittenOperandSeenByNextCommand :=
  fun _ _ _ _ _ _ hp hr _ hc hv => ⟨_, step_store hp hr hc hv, step_command rfl⟩

/-- Settles O38: every operation ends with one of its effects. -/
theorem everyCommandCompletes : Obligations.EveryCommandCompletes := by
  intro i s
  obtain ⟨f, -, hx⟩ := exec_effect i s
  exact ⟨_, hx s (.refl s)⟩

/-- Settles O39: a step is idle, or serves its event, or refuses it. -/
theorem noReadOutsideBuffers : Obligations.NoReadOutsideBuffers := by
  intro s f h
  cases hp : s.pending with
  | nil => cases (step_nil hp).symm.trans h
  | cons e rest =>
    have hx := (step_cons hp).symm.trans h
    by_cases hwf : e.wf = true
    · obtain ⟨t, ht⟩ := serve_next_of_wf { s with pending := rest } hwf
      cases ht.symm.trans hx
    · obtain ⟨why, hw⟩ := serve_refused_of_not_wf { s with pending := rest } hwf
      cases hw.symm.trans hx

/-- The word of an operation is well-formed (30_encoding.md R83). -/
theorem Instr.wf_eq_true (i : Instr) : i.wf = true := by
  cases i <;> decide

/-- Settles O4: a word that selects an operation is that operation's word. -/
theorem stepRunsDecodedCommand : Obligations.StepRunsDecodedCommand := by
  intro s w rest i hp hw
  obtain rfl := eq_encode_of_decodeCommand hw
  exact ⟨Instr.wf_eq_true i, step_command hp⟩

/-- Settles O5: the table word is the operation's word, put before the pending events. -/
theorem fetchWordRunsNext : Obligations.FetchWordRunsNext := by
  intro s i
  have hword : BitVec.ofNat 64 ((encode i).toNat % 2 ^ 32) = (encode i).setWidth 64 := by
    rw [Nat.mod_eq_of_lt (encode i).isLt, BitVec.ofNat_toNat]
  have hp : (s.withFetchWord 32 (encode i).toNat).pending = .regWrite 13 ((encode i).setWidth 64) :: s.pending :=
    hword ▸ rfl
  rw [step_command hp]
  rfl

/-- Settles O7: with nothing pending the step is idle. -/
theorem idleHoldsState : Obligations.IdleHoldsState := fun _ => step_nil

/-- Settles O9: the answer of a register is its value, also of an entry of `BLK` while `BLK_VALID` is 1. -/
theorem regReadAnswersValue : Obligations.RegReadAnswersValue := by
  intro s n r rest hp hr hvalid
  rw [step_cons hp, serve, regRead_answerReg _ hr]
  cases r with
  | blk i => exact congrArg Host.Outcome.next (if_pos (hvalid i rfl))
  | _ => rfl

/-- Settles O10: the answer of an entry of `BLK` while `BLK_VALID` is 0 is the free value drawn. -/
theorem invalidBlkReadAnswersFreeValue : Obligations.InvalidBlkReadAnswersFreeValue := by
  intro s i rest hp hvalid
  have hr : regOfIndex (64 + i.val) = some (.blk i) := regOfIndex_regIndex (.blk i)
  refine ⟨Config.freeEntry s.freeCount i.val, ?_⟩
  rw [step_cons hp, serve, regRead_answerReg _ hr]
  exact congrArg Host.Outcome.next (if_neg (Bool.eq_false_iff.1 hvalid))

/-- Settles O11: the two cases of a grid read. -/
theorem gridReadAnswersByte : Obligations.GridReadAnswersByte := by
  intro s g a rest hp
  rw [step_cons hp, serve]
  refine ⟨fun b hvalid hb => ?_, fun h => ⟨Config.freeByte s.freeCount, ?_⟩⟩
  · exact gridRead_byte hvalid hb
  · exact gridRead_free h

/-- Settles O16: every field after a reset by the definition of the reset state; `BLK` by the draw it makes. -/
theorem hardwareResetLeaves : Obligations.HardwareResetLeaves := by
  intro s rest hp
  refine ⟨_, step_cons hp, rfl, rfl, fun r => readReg_hardwareReset _, getFlag_zero, rfl, rfl, rfl, rfl, rfl,
    freeBlk_getElem s.freeCount, fun g a => ?_, rfl, rfl⟩
  cases g <;> rfl

end Sys2Proof.Machine

/-! What a command leaves alone (10_state.md R41, 20_memory.md R45 and R54, 60_exceptions.md R126). -/

namespace Sys2Proof.Machine

/-! The status word by its flags -/

/-- Two status words with the same flags and the same bits 31:4 are equal. -/
theorem status_ext {a b : BitVec 32} (hflags : ∀ f, getFlag a f = getFlag b f) (hhigh : a >>> 4 = b >>> 4) : a = b := by
  refine BitVec.eq_of_getLsbD_eq fun i _ => ?_
  match i with
  | 0 => exact hflags .done
  | 1 => exact hflags .err
  | 2 => exact hflags .blkValid
  | 3 => exact hflags .outValid
  | i + 4 =>
    have hbit := congrArg (BitVec.getLsbD · i) hhigh
    simpa only [BitVec.getLsbD_ushiftRight, Nat.add_comm] using hbit

/-- Setting and clearing bits 3:0 keeps bits 31:4. -/
theorem or_andNot_high {set clear : BitVec 32} (st : BitVec 32) (hset : set >>> 4 = 0#32)
    (hclear : ~~~clear >>> 4 = BitVec.allOnes 32 >>> 4) : ((st ||| set) &&& ~~~clear) >>> 4 = st >>> 4 := by
  rw [BitVec.ushiftRight_and_distrib, hclear, ← BitVec.ushiftRight_and_distrib, BitVec.and_allOnes,
    BitVec.ushiftRight_or_distrib, hset, BitVec.or_zero]

theorem getFlag_or_andNot (st set clear : BitVec 32) (f : Flag) :
    getFlag ((st ||| set) &&& ~~~clear) f = ((getFlag st f || getFlag set f) && !getFlag clear f) := by
  cases f <;> simp [getFlag, Flag.bit]

theorem setFlag_high (st : BitVec 32) (f : Flag) (b : Bool) : setFlag st f b >>> 4 = st >>> 4 := by
  cases b with
  | true =>
    have hset : setFlag st f true = (st ||| 1#32 <<< f.bit) &&& ~~~0#32 := by
      rw [setFlag, if_pos rfl, BitVec.not_zero, BitVec.and_allOnes]
    rw [hset, or_andNot_high st (by cases f <;> rfl) rfl]
  | false =>
    have hclear : setFlag st f false = (st ||| 0#32) &&& ~~~(1#32 <<< f.bit) := by
      rw [setFlag, if_neg Bool.false_ne_true, BitVec.or_zero]
    rw [hclear, or_andNot_high st rfl (by cases f <;> rfl)]

theorem Effect.apply_status_high (f : Effect) (s : State) : (f.apply s).status >>> 4 = s.status >>> 4 := by
  cases f <;> simp only [Effect.apply, completeOk_status, raiseError_status, loadBlk_status, invalidateBlk_status,
    discardGrids_status, startRender_status, finishRender_status, setFlag_high]

/-! Frames of the effects -/

/-- An operation that does not render leaves every byte (30_encoding.md R77). -/
theorem HasEffect.byteAt_kept {s : State} {d : Decoded} {f : Effect} (hf : HasEffect s d f) (h : d ≠ .instr .render)
    (sp : Space) (a : Nat) : (f.apply s).byteAt sp a = s.byteAt sp a := by
  cases hf with
  | rendered | renderFailed => exact absurd rfl h
  | _ => cases sp <;> rfl

/-- Only `DECODE` and `RENDER` touch `BLK` (60_exceptions.md R126). -/
theorem HasEffect.blk_kept {s : State} {d : Decoded} {f : Effect} (hf : HasEffect s d f) (hd : d ≠ .instr .decode)
    (hr : d ≠ .instr .render) : (f.apply s).blk = s.blk ∧ (f.apply s).freeCount = s.freeCount := by
  cases hf with
  | decoded | decodeFailed => exact absurd rfl hd
  | rendered | renderFailed => exact absurd rfl hr
  | _ => exact ⟨rfl, rfl⟩

/-- What an operation reads is as before after an operation that does not render. -/
theorem HasEffect.sameInputs {s : State} {d : Decoded} {f : Effect} (hf : HasEffect s d f) (h : d ≠ .instr .render) :
    SameInputs s (f.apply s) := by
  cases hf with
  | rendered | renderFailed => exact absurd rfl h
  | _ => constructor <;> rfl

/-- An operation that raises `Illegal` does nothing else (60_exceptions.md R126). -/
theorem eq_raiseError_of_errKind_four {i : Instr} {s t : State} (h : exec i s = .next t) (hk : t.errKind = 4#8) :
    t = raiseError { kind := .illegal } s := by
  rcases exec_reports h with ⟨-, hn⟩ | ⟨e, hcause, hr⟩
  · cases hn.kind.symm.trans hk
  · have he := hr.kind_eq_four.1 hk
    cases hcause with
    | area hL => exact Host.Outcome.next.inj (h.symm.trans (exec_render_illegal hL))
    | block i j _ _ _ _ hb => exact absurd he hb.kind_ne_illegal
    | _ => cases he

/-! The same command again -/

/-- The effects that draw no free values and compose no grid. -/
def Effect.Repeatable : Effect → Prop
  | .resolved _ | .located _ | .decoded _ | .errorOnly _ => True
  | .decodeFailed _ | .rendered _ _ | .renderFailed _ _ => False

/-- Applied twice, such an effect does what it does once: its second status word has the same flags. -/
theorem Effect.apply_apply {f : Effect} (hf : f.Repeatable) (s : State) : f.apply (f.apply s) = f.apply s := by
  have hstatus : (f.apply (f.apply s)).status = (f.apply s).status := by
    refine status_ext (fun g => ?_) (by simp only [f.apply_status_high])
    change (f.apply (f.apply s)).flag g = (f.apply s).flag g
    cases f with
    | decodeFailed | rendered | renderFailed => exact hf.elim
    | _ => cases g <;> simp [Effect.apply, State.flag, getFlag_setFlag]
  calc f.apply (f.apply s)
    _ = { f.apply s with status := (f.apply (f.apply s)).status } := by
      cases f with
      | decodeFailed | rendered | renderFailed => exact hf.elim
      | _ => rfl
    _ = f.apply s := by rw [hstatus]

theorem HasEffect.repeatable {s : State} {i : Instr} {f : Effect} (hf : HasEffect s (.instr i) f) (hr : i ≠ .render)
    (hok : i = .decode → (f.apply s).flag .err = false) : f.Repeatable := by
  cases hf with
  | decodeFailed e => simp [Effect.apply] at hok
  | rendered | renderFailed => exact absurd rfl hr
  | _ => trivial

/-! The obligations -/

/-- Settles O43: no effect writes any of them. -/
theorem operandsNeverWritten : Obligations.OperandsNeverWritten := by
  intro i s t h
  obtain ⟨f, -, hx⟩ := exec_effect i s
  obtain rfl := Host.Outcome.next.inj ((hx s (.refl s)).symm.trans h)
  cases f <;> simp [Effect.apply]

/-- Settles O47: by cases over the effects; an `Illegal` because it does nothing but record itself. -/
theorem outputsFrame : Obligations.OutputsFrame := by
  intro i s t h
  obtain ⟨f, hf, hx⟩ := exec_effect i s
  obtain rfl := Host.Outcome.next.inj ((hx s (.refl s)).symm.trans h)
  obtain ⟨hlut, hmap⟩ := f.apply_sameBuffers s
  refine ⟨fun hi => hf.byteAt_kept (by simpa using hi), fun hk => ?illegal, fun hi => ?blk, fun a => ?inputs⟩
  case illegal =>
    rw [eq_raiseError_of_errKind_four h hk]
    exact ⟨rfl, rfl, fun sp a => by cases sp <;> rfl⟩
  case blk => rcases hi with rfl | rfl <;> exact hf.blk_kept (by simp) (by simp)
  case inputs => exact ⟨by simp only [State.byteAt, hlut], by simp only [State.byteAt, hmap]⟩

/-- Settles O49: the operation reads the same inputs again, so it has the same effect, which changes nothing more. -/
theorem repeatedCommandChangesNothing : Obligations.RepeatedCommandChangesNothing := by
  intro i s t hi h hok
  obtain ⟨f, hf, hx⟩ := exec_effect i s
  obtain rfl := Host.Outcome.next.inj ((hx s (.refl s)).symm.trans h)
  rw [hx _ (hf.sameInputs (by simpa using hi)), Effect.apply_apply (hf.repeatable hi hok)]

end Sys2Proof.Machine

/-! The exact outcomes of `DECODE` and `RENDER` (43_block_decoder.md R98, 44_area_renderer.md R106). -/

namespace Sys2Proof.Machine

/-! The status words -/

theorem eq_or_andNot {a st set clear : BitVec 32}
    (hflags : ∀ f, getFlag a f = ((getFlag st f || getFlag set f) && !getFlag clear f)) (hhigh : a >>> 4 = st >>> 4)
    (hset : set >>> 4 = 0#32) (hclear : ~~~clear >>> 4 = BitVec.allOnes 32 >>> 4) : a = (st ||| set) &&& ~~~clear :=
  status_ext (fun f => (hflags f).trans (getFlag_or_andNot st set clear f).symm)
    (hhigh.trans (or_andNot_high st hset hclear).symm)

theorem setFlag_decoded (st : BitVec 32) :
    setFlag (setFlag (setFlag st .blkValid true) .err false) .done true = (st ||| 5#32) &&& ~~~2#32 := by
  refine eq_or_andNot (fun f => ?_) (by simp only [setFlag_high]) rfl rfl
  simp only [getFlag_setFlag]
  cases f <;> simp [getFlag, Flag.bit]

theorem setFlag_decodeFailed (st : BitVec 32) :
    setFlag (setFlag (setFlag st .blkValid false) .err true) .done true = (st ||| 3#32) &&& ~~~4#32 := by
  refine eq_or_andNot (fun f => ?_) (by simp only [setFlag_high]) rfl rfl
  simp only [getFlag_setFlag]
  cases f <;> simp [getFlag, Flag.bit]

theorem setFlag_rendered (st : BitVec 32) :
    setFlag (setFlag (setFlag (setFlag (setFlag st .outValid false) .blkValid false) .outValid true) .err false)
      .done true = (st ||| 9#32) &&& ~~~6#32 := by
  refine eq_or_andNot (fun f => ?_) (by simp only [setFlag_high]) rfl rfl
  simp only [getFlag_setFlag]
  cases f <;> simp [getFlag, Flag.bit]

theorem setFlag_renderFailed (st : BitVec 32) :
    setFlag (setFlag (setFlag (setFlag st .outValid false) .blkValid false) .err true) .done true =
      (st ||| 3#32) &&& ~~~12#32 := by
  refine eq_or_andNot (fun f => ?_) (by simp only [setFlag_high]) rfl rfl
  simp only [getFlag_setFlag]
  cases f <;> simp [getFlag, Flag.bit]

/-! `DECODE` -/

/-- A source length of 196, as the number that `DECODE` compares (43_block_decoder.md R98). -/
theorem srcLen_toNat_eq {s : State} : s.srcLen.toNat = 196 ↔ s.srcLen = 196#16 := BitVec.toNat_inj (y := 196#16)

theorem exec_decode_ok {s : State} (hl : s.srcLen = 196#16) (hm : s.srcOff.toNat + 196 ≤ s.map.len.toNat)
    (hall : CellsResolve s s.srcOff.toNat 64) :
    exec .decode s = .next (completeOk (loadBlk (tileAt s s.srcOff.toNat) s)) := by
  simp only [exec, execDecode, srcLen_toNat_eq.2 hl, ne_eq, not_true, if_false, if_neg hm.not_gt,
    decodeBlock_tileAt hm hall]

/-- Entry `i` of `BLK` after a decoding, from the cell's bytes (30_encoding.md R75). -/
theorem tileAt_entry (s : State) (base : Nat) (i : Fin 64) :
    ((tileAt s base).map Pixel.entry).getD i.val 0#32 = (cellPixel s base i.val).entry := by
  rw [List.getD_eq_getElem?_getD, List.getElem?_map, tileAt_getElem? s base i.isLt]
  rfl

/-- `DECODE` with a cause of an error records it, clears `BLK_VALID` and leaves everything else but `BLK`. -/
theorem exec_decode_error {s : State} {e : ErrorInfo} (h : ErrorCause s .decode e) :
    exec .decode s = .next (raiseError e (invalidateBlk s)) := by
  cases h with
  | length hl =>
    simp only [exec, execDecode, ne_eq, srcLen_toNat_eq, hl, not_false_eq_true, if_true]
  | record hl hm =>
    simp only [exec, execDecode, srcLen_toNat_eq.2 hl, ne_eq, not_true, if_false, if_pos hm]
  | cell k hl hm hk hr hn =>
    simp only [exec, execDecode, srcLen_toNat_eq.2 hl, ne_eq, not_true, if_false, if_neg hm.not_gt,
      decodeBlock_unresolved hm hk hr hn]

/-- The errors of `DECODE` name the source offset and no coordinate (60_exceptions.md R123). -/
theorem ErrorCause.decode_fields {s : State} {e : ErrorInfo} (h : ErrorCause s .decode e) :
    e.h = 0 ∧ e.v = 0 ∧ e.off = s.srcOff.toNat := by
  cases h <;> exact ⟨rfl, rfl, rfl⟩

/-- The state after a failed `DECODE`, but for what `BLK` holds (43_block_decoder.md R98). -/
theorem exec_decode_failed {s : State} {e : ErrorInfo} (h : ErrorCause s .decode e) :
    ∃ t, exec .decode s = .next t ∧ t = { s with
      errKind := e.kind.number, errH := 0#32, errV := 0#32, errOff := s.srcOff, errCode := e.code
      status := (s.status ||| 3#32) &&& ~~~4#32, blk := t.blk, freeCount := t.freeCount } := by
  obtain ⟨hh, hv, hoff⟩ := h.decode_fields
  refine ⟨_, exec_decode_error h, ?_⟩
  rw [raiseError, hh, hv, hoff, BitVec.ofNat_toNat, BitVec.setWidth_eq, invalidateBlk_status, setFlag_decodeFailed]
  rfl

/-! `RENDER` that fails -/

theorem renderFailedWith_raiseError (e : ErrorInfo) (s : State) :
    RenderFailedWith s (raiseError e (discardGrids s.area.pixelW s.area.pixelH (startRender s.area s)))
      e.kind.number e.h e.v e.off e.code := by
  refine ⟨?_, fun a ha => ?_, fun a ha => ?_⟩
  · rw [raiseError, discardGrids_status, startRender_status, setFlag_renderFailed]
    rfl
  · rw [← Nat.mul_assoc] at ha
    exact (Memory.read_eraseBelow _ _ a).trans (if_neg (Nat.not_lt.2 ha))
  · exact (Memory.read_eraseBelow _ _ a).trans (if_neg (Nat.not_lt.2 ha))

/-- `RENDER` that reaches a block that fails, with every block before it passed (44_area_renderer.md R110). -/
theorem exec_render_failed {s : State} {i j : Nat} {e : ErrorInfo} (hL : AreaLegal s) (hi : i < s.sizeH.toNat)
    (hj : j < s.sizeV.toNat) (hbefore : PassesBefore s i j)
    (hb : BlockFails s s.area (s.startH.toNat + i, s.startV.toNat + j) e) :
    ∃ t, exec .render s = .next t ∧ RenderFailedWith s t e.kind.number e.h e.v e.off e.code :=
  ⟨_, exec_render_first_failing_block hL hi hj hbefore hb, renderFailedWith_raiseError e s⟩

/-! `RENDER` that completes -/

/-- The blocks of an area are those of its pixels (44_area_renderer.md R108, R109). -/
theorem Area.pixel_mem_blocks {p : Area} {x y : Nat} :
    (p.sh + x / 8, p.sv + y / 8) ∈ p.blocks ↔ x < p.pixelW ∧ y < p.pixelH := by
  rw [p.mem_blocks]
  simp only [Area.pixelW, Area.pixelH, Config.tileW, Config.tileH]
  omega

theorem Area.block_mem_blocks (p : Area) {i j : Nat} (hi : i < p.w) (hj : j < p.ht) :
    (p.sh + i, p.sv + j) ∈ p.blocks :=
  (p.mem_blocks _).2 ⟨Nat.le_add_right .., Nat.add_lt_add_left hi _, Nat.le_add_right .., Nat.add_lt_add_left hj _⟩

theorem finishRender_startRender_eq (p : Area) (g : Grids) (s : State) :
    finishRender g (startRender p s) = { s with
      outW := BitVec.ofNat 32 p.pixelW, outH := BitVec.ofNat 32 p.pixelH
      errKind := 0#8, errH := 0#32, errV := 0#32, errOff := 0#64, errCode := 0#16
      status := (s.status ||| 9#32) &&& ~~~6#32
      blk := freeBlk s.freeCount, freeCount := s.freeCount + 1, cgrid := g.c, hgrid := g.h } := by
  rw [← setFlag_rendered]
  rfl

section
variable {s : State} {g : Grids} (hg : RendersTo s g)
include hg

section
variable {i j h v : Nat} (hi : i < s.sizeH.toNat) (hj : j < s.sizeV.toNat) (hh : h < 8) (hv : v < 8)
include hi hj hh hv

/-- The bytes of a cell's pixel in `CGRID` after a `RENDER` that completes (44_area_renderer.md R111). -/
theorem RendersTo.colour_pixel {k : Nat} (hk : k < 3) :
    Memory.read g.c (colourOffset (8 * i + h) (8 * j + v) (8 * s.sizeH.toNat) + k) =
      some ((cellPixel s (recordOffset s (s.startH.toNat + i) (s.startV.toNat + j)) (8 * v + h)).rgb.channel k) := by
  rw [← area_offset_eq hg.legal]
  exact (hg.colour _).trans (renderedColour_pixel (s.area.block_mem_blocks hi hj) hi hh hv hk)

/-- The grey level of a cell's pixel in `HGRID` after a `RENDER` that completes (44_area_renderer.md R111). -/
theorem RendersTo.height_pixel :
    Memory.read g.h (heightOffset (8 * i + h) (8 * j + v) (8 * s.sizeH.toNat)) =
      some (grey (cellPixel s (recordOffset s (s.startH.toNat + i) (s.startV.toNat + j)) (8 * v + h)).height) := by
  rw [← area_offset_eq hg.legal]
  exact (hg.height _).trans (renderedHeight_pixel (s.area.block_mem_blocks hi hj) hi hh hv)

end

/-- A byte of `CGRID` that is no byte of a pixel of the area is kept (44_area_renderer.md R113). -/
theorem RendersTo.colour_frame {a : Nat}
    (ha : ∀ x y k, x < s.area.pixelW → y < s.area.pixelH → k < 3 → a ≠ colourOffset x y s.area.pixelW + k) :
    Memory.read g.c a = Memory.read s.cgrid a := by
  refine (hg.colour a).trans (if_neg fun hmem => ?_)
  obtain ⟨hx, hy⟩ := Area.pixel_mem_blocks.1 hmem
  refine ha _ _ _ hx hy (Nat.mod_lt a (by decide)) ?_
  rw [colourOffset, Nat.div_add_mod', Nat.div_add_mod]

/-- A byte of `HGRID` that is no pixel of the area is kept (44_area_renderer.md R113). -/
theorem RendersTo.height_frame {a : Nat}
    (ha : ∀ x y, x < s.area.pixelW → y < s.area.pixelH → a ≠ heightOffset x y s.area.pixelW) :
    Memory.read g.h a = Memory.read s.hgrid a := by
  refine (hg.height a).trans (if_neg fun hmem => ?_)
  obtain ⟨hx, hy⟩ := Area.pixel_mem_blocks.1 hmem
  exact ha _ _ hx hy (Nat.div_add_mod' a _).symm

end

/-! The obligations -/

/-- Settles O26: the decoded tile, entry by entry, and the status word by its flags. -/
theorem decodeCompletes : Obligations.DecodeCompletes := by
  intro s hl hm hall
  rw [exec_decode_ok hl hm hall, completeOk, loadBlk]
  simp only [tileAt_entry, setFlag_decoded]
  rfl

/-- Settles O27: a wrong length is a cause of a failed `DECODE`. -/
theorem decodeWrongLengthMalformed : Obligations.DecodeWrongLengthMalformed := fun _ hl =>
  exec_decode_failed (.length hl)

/-- Settles O28: a record outside `MAP` is a cause of a failed `DECODE`. -/
theorem decodeOutsideMapTruncated : Obligations.DecodeOutsideMapTruncated := fun _ hl hm =>
  exec_decode_failed (.record hl hm)

/-- Settles O29: the first code that does not resolve is a cause of a failed `DECODE`. -/
theorem decodeReportsFirstUnresolvedCode : Obligations.DecodeReportsFirstUnresolvedCode :=
  fun _ k hl hm hk hr hn => exec_decode_failed (.cell k hl hm hk hr hn)

/-- Settles O32: the state by its updates, the bytes of the area by what the loop leaves at each pixel. -/
theorem renderCompletes : Obligations.RenderCompletes := by
  intro s hL hp
  obtain ⟨g, hg, hx⟩ := exec_render_of_passes hL ((forall_blocks_pass_iff hL).2 hp)
  refine ⟨_, hx, finishRender_startRender_eq _ g s, fun i j h v hi hj hh hv => ?_, fun a ha => hg.colour_frame ha,
    fun a ha => hg.height_frame ha⟩
  exact ⟨hg.colour_pixel hi hj hh hv (k := 0) (by decide), hg.colour_pixel hi hj hh hv (k := 1) (by decide),
    hg.colour_pixel hi hj hh hv (k := 2) (by decide), hg.height_pixel hi hj hh hv⟩

/-- Settles O34: the block fails its first check. -/
theorem renderRowOutsideGridOutOfRange : Obligations.RenderRowOutsideGridOutOfRange :=
  fun _ _ _ hL hi hj hbefore hrow => exec_render_failed hL hi hj hbefore (.row hrow)

/-- Settles O35: the block passes its first check and fails its second. -/
theorem renderRecordOutsideMapTruncated : Obligations.RenderRecordOutsideMapTruncated := by
  intro s i j hL hi hj hbefore hrow hm
  rw [← area_offset_eq hL] at hm ⊢
  exact exec_render_failed hL hi hj hbefore (.record hrow hm)

/-- Settles O36: the block passes its first two checks and fails its third at cell `k`. -/
theorem renderUnresolvedCodeMalformed : Obligations.RenderUnresolvedCodeMalformed := by
  intro s i j k hL hi hj hbefore hrow hm hk hr hn
  rw [← area_offset_eq hL] at hm hr hn ⊢
  exact exec_render_failed hL hi hj hbefore (.code k hrow hm hk hr hn)

end Sys2Proof.Machine

/-! The invariant of the machine: after a reset, and after every step (10_state.md R30, R31, R36, R37; 30_encoding.md
R80; 44_area_renderer.md R113; 60_exceptions.md R123). -/

namespace Sys2Proof.Machine

/-! The fields the invariant speaks of -/

/-- `t` agrees with `s` on every field the invariant speaks of. -/
structure SameOutputs (s t : State) : Prop where
  status : t.status = s.status
  errKind : t.errKind = s.errKind
  errH : t.errH = s.errH
  errV : t.errV = s.errV
  errOff : t.errOff = s.errOff
  errCode : t.errCode = s.errCode
  resRgb : t.resRgb = s.resRgb
  resOff : t.resOff = s.resOff
  outW : t.outW = s.outW
  outH : t.outH = s.outH
  cgrid : t.cgrid = s.cgrid
  hgrid : t.hgrid = s.hgrid

/-- While `OUT_VALID` is 1 the grids are not empty and hold a specified value at every byte (44_area_renderer.md
R113), and the output spaces are in canonical form: the invariant's part on the grids. -/
structure GridsInv (s : State) : Prop where
  complete : s.flag .outValid = true →
    0 < s.outW.toNat ∧ 0 < s.outH.toNat ∧
      (∀ a, a < 3 * (s.outW.toNat * s.outH.toNat) → (Memory.read s.cgrid a).isSome = true) ∧
      ∀ a, a < s.outW.toNat * s.outH.toNat → (Memory.read s.hgrid a).isSome = true
  colourWf : Memory.wf s.cgrid = true
  heightWf : Memory.wf s.hgrid = true

theorem Inv.gridsInv {s : State} (h : Inv s) : GridsInv s := ⟨h.complete, h.colourWf, h.heightWf⟩

theorem GridsInv.congr {s t : State} (h : GridsInv s) (hflag : t.flag .outValid = s.flag .outValid)
    (hw : t.outW = s.outW) (hh : t.outH = s.outH) (hc : t.cgrid = s.cgrid) (hg : t.hgrid = s.hgrid) : GridsInv t :=
  ⟨by rw [hflag, hw, hh, hc, hg]; exact h.complete, by rw [hc]; exact h.colourWf, by rw [hg]; exact h.heightWf⟩

theorem Inv.congr {s t : State} (h : Inv s) (ht : SameOutputs s t) : Inv t := by
  have hflag (f : Flag) : t.flag f = s.flag f := congrArg (getFlag · f) ht.status
  have hgrids := h.gridsInv.congr (hflag _) ht.outW ht.outH ht.cgrid ht.hgrid
  refine { statusHigh := ?_, errFlag := ?_, errKind := ?_, errClear := ?_, notDone := ?_, resRgb := ?_, resOff := ?_,
           outDims := ?_, complete := hgrids.complete, colourWf := hgrids.colourWf, heightWf := hgrids.heightWf }
  · rw [ht.status]; exact h.statusHigh
  · rw [hflag, ht.errKind]; exact h.errFlag
  · rw [ht.errKind]; exact h.errKind
  · rw [ht.errKind, ht.errH, ht.errV, ht.errOff, ht.errCode]; exact h.errClear
  · rw [hflag, ht.status]; exact h.notDone
  · rw [ht.resRgb]; exact h.resRgb
  · rw [ht.resOff]; exact h.resOff
  · rw [ht.outW, ht.outH]; exact h.outDims

theorem storeReg_sameOutputs (r : Reg) (v : BusValue) (s : State) : SameOutputs s (storeReg r v s) := by
  cases r <;> constructor <;> rfl

theorem hardwareReset_sameOutputs (s : State) : SameOutputs State.reset (hardwareReset s) := by
  constructor <;> rfl

theorem inv_reset : Inv State.reset where
  statusHigh := by decide
  errFlag := by decide
  errKind := by decide
  errClear _ := ⟨rfl, rfl, rfl, rfl⟩
  notDone _ := rfl
  resRgb := rfl
  resOff := by decide
  outDims := by decide
  complete := by decide
  colourWf := rfl
  heightWf := rfl

/-! What a command leaves in the result registers -/

theorem ErrorKind.number_le_four (k : ErrorKind) : k.number.toNat ≤ 4 := by cases k <;> decide

theorem Effect.apply_errKind_le (f : Effect) (s : State) : (f.apply s).errKind.toNat ≤ 4 := by
  cases f with
  | resolved | located | decoded | rendered => exact Nat.zero_le 4
  | decodeFailed e | renderFailed _ e | errorOnly e => exact e.kind.number_le_four

/-- The registers beside `ERR_KIND` hold 0 after a command without an error, and after an `Illegal`. -/
theorem errRegs_zero_of_runCommand {w : BitVec 32} {s t : State} (h : runCommand w s = .next t)
    (hk : t.errKind = 0#8 ∨ t.errKind = 4#8) : t.errH = 0#32 ∧ t.errV = 0#32 ∧ t.errOff = 0#64 ∧ t.errCode = 0#16 := by
  cases hd : decodeCommand w with
  | instr i => exact errRegs_zero_of_exec ((runCommand_instr hd s).symm.trans h) hk
  | reserved why =>
    obtain rfl := Host.Outcome.next.inj ((runCommand_reserved hd s).symm.trans h)
    exact ⟨rfl, rfl, rfl, rfl⟩

/-- The low three bits of each channel of a colour are 0 (30_encoding.md R80). -/
theorem rgbOfWord_word_low (w : BitVec 16) : (rgbOfWord w).word &&& 0x070707#24 = 0#24 := by
  have hmask : 0x070707#24 = (0#5 ++ 7#3) ++ (0#5 ++ 7#3) ++ (0#5 ++ 7#3) := rfl
  have hchannel (c : BitVec 5) : (c ++ 0#3) &&& (0#5 ++ 7#3) = 0#8 := by
    rw [BitVec.and_append, BitVec.and_zero, BitVec.zero_and]
    rfl
  rw [hmask, Rgb.word, rgbOfWord, BitVec.and_append, BitVec.and_append, hchannel, hchannel, hchannel]
  rfl

theorem HasEffect.resRgb_low {s : State} {d : Decoded} {f : Effect} (hf : HasEffect s d f)
    (h : s.resRgb &&& 0x070707#24 = 0#24) : (f.apply s).resRgb &&& 0x070707#24 = 0#24 := by
  cases hf with
  | resolved => exact rgbOfWord_word_low _
  | _ => exact h

theorem HasEffect.resOff_lt {s : State} {d : Decoded} {f : Effect} (hf : HasEffect s d f)
    (h : s.resOff.toNat < 2 ^ 48) : (f.apply s).resOff.toNat < 2 ^ 48 := by
  cases hf with
  | located hv =>
    rw [Effect.apply, completeOk_resOff, BitVec.toNat_ofNat]
    exact (Nat.mod_le _ _).trans_lt (offset_lt hv)
  | _ => exact h

/-- The dimensions are multiples of 8, at most 524280 (10_state.md R37). -/
def DimsOk (s : State) : Prop :=
  s.outW.toNat % 8 = 0 ∧ s.outW.toNat ≤ 524280 ∧ s.outH.toNat % 8 = 0 ∧ s.outH.toNat ≤ 524280

theorem HasEffect.outDims_ok {s : State} {d : Decoded} {f : Effect} (hf : HasEffect s d f) (h : DimsOk s) :
    DimsOk (f.apply s) := by
  obtain ⟨hw8, hwMax⟩ := eight_mul_size s.sizeH
  obtain ⟨hh8, hhMax⟩ := eight_mul_size s.sizeV
  have hdims (t : State) (hw : t.outW = BitVec.ofNat 32 (8 * s.sizeH.toNat))
      (hh : t.outH = BitVec.ofNat 32 (8 * s.sizeV.toNat)) : DimsOk t := by
    rw [DimsOk, hw, hh, hw8, hh8]
    omega
  cases hf with
  | rendered | renderFailed => exact hdims _ rfl rfl
  | _ => exact h

/-! The grids -/

/-- A command that does not render leaves the grids and what `OUT_VALID` says of them. -/
theorem HasEffect.gridsInv {s : State} {d : Decoded} {f : Effect} (hf : HasEffect s d f) (hd : d ≠ .instr .render)
    (h : GridsInv s) : GridsInv (f.apply s) := by
  cases hf with
  | rendered | renderFailed => exact absurd rfl hd
  | _ => exact h.congr (by simp [Effect.apply, State.flag, getFlag_setFlag]) rfl rfl rfl rfl

/-- Every byte below the end of `CGRID` is a channel of a pixel of the area (44_area_renderer.md R113). -/
theorem renderedColour_isSome (s : State) (p : Area) (g : Grids) {a : Nat} (ha : a < 3 * (p.pixelW * p.pixelH)) :
    (renderedColour s p p.blocks g a).isSome = true := by
  have hpixel : a / 3 < p.pixelW * p.pixelH := Nat.div_lt_of_lt_mul ha
  have hx : a / 3 % p.pixelW < p.pixelW := Nat.mod_lt _ (Nat.pos_of_lt_mul_right hpixel)
  have hy : a / 3 / p.pixelW < p.pixelH := Nat.div_lt_of_lt_mul hpixel
  rw [renderedColour, if_pos (Area.pixel_mem_blocks.2 ⟨hx, hy⟩), Option.isSome_some]

/-- Every byte below the end of `HGRID` is a pixel of the area (44_area_renderer.md R113). -/
theorem renderedHeight_isSome (s : State) (p : Area) (g : Grids) {a : Nat} (ha : a < p.pixelW * p.pixelH) :
    (renderedHeight s p p.blocks g a).isSome = true := by
  have hx : a % p.pixelW < p.pixelW := Nat.mod_lt _ (Nat.pos_of_lt_mul_right ha)
  have hy : a / p.pixelW < p.pixelH := Nat.div_lt_of_lt_mul ha
  rw [renderedHeight, if_pos (Area.pixel_mem_blocks.2 ⟨hx, hy⟩), Option.isSome_some]

/-- The dimension registers after a `RENDER` of a legal area hold the exact dimensions, which are not 0 (10_state.md
R37). -/
theorem area_dims {s : State} (hL : AreaLegal s) :
    ((BitVec.ofNat 32 s.area.pixelW).toNat = s.area.pixelW ∧ 0 < s.area.pixelW) ∧
      (BitVec.ofNat 32 s.area.pixelH).toNat = s.area.pixelH ∧ 0 < s.area.pixelH := by
  obtain ⟨hw, hh, -⟩ := hL
  have hw : 0 < s.sizeH.toNat := Nat.pos_of_ne_zero (BitVec.toNat_ne.1 hw)
  have hh : 0 < s.sizeV.toNat := Nat.pos_of_ne_zero (BitVec.toNat_ne.1 hh)
  exact ⟨⟨(eight_mul_size s.sizeH).1, Nat.mul_pos (by decide) hw⟩, (eight_mul_size s.sizeV).1,
    Nat.mul_pos (by decide) hh⟩

/-- After `RENDER` the grids are as they were, or invalid, or complete (44_area_renderer.md R106, R112, R113). -/
theorem gridsInv_of_exec_render {s t : State} (h : GridsInv s) (hx : exec .render s = .next t) : GridsInv t := by
  rcases exec_render_cases s with ⟨-, hr⟩ | ⟨-, l1, b, l2, e, -, -, -, hr⟩ | ⟨hL, -, g, hr, hc, hh, hwf⟩
  · obtain rfl := Host.Outcome.next.inj (hr.symm.trans hx)
    exact h.congr (by simp) rfl rfl rfl rfl
  · obtain rfl := Host.Outcome.next.inj (hr.symm.trans hx)
    exact ⟨fun hvalid => by simp at hvalid, Memory.wf_eraseBelow _ h.colourWf, Memory.wf_eraseBelow _ h.heightWf⟩
  · obtain rfl := Host.Outcome.next.inj (hr.symm.trans hx)
    obtain ⟨hcolourWf, hheightWf⟩ := hwf h.colourWf h.heightWf
    obtain ⟨⟨hw, hwPos⟩, hht, hhtPos⟩ := area_dims hL
    refine ⟨fun _ => ?_, hcolourWf, hheightWf⟩
    simp only [finishRender_outW, finishRender_outH, startRender_outW, startRender_outH, hw, hht, finishRender_cgrid,
      finishRender_hgrid, hc, hh]
    exact ⟨hwPos, hhtPos, fun a => renderedColour_isSome s _ _, fun a => renderedHeight_isSome s _ _⟩

theorem gridsInv_of_runCommand {w : BitVec 32} {s t : State} (h : GridsInv s) (hx : runCommand w s = .next t) :
    GridsInv t := by
  by_cases hd : decodeCommand w = .instr .render
  · exact gridsInv_of_exec_render h ((runCommand_instr hd s).symm.trans hx)
  · obtain ⟨f, hf, rfl⟩ := hasEffect_of_runCommand hx
    exact hf.gridsInv hd h

/-! The steps -/

/-- Every command keeps the invariant, whatever its word. -/
theorem Inv.runCommand {w : BitVec 32} {s t : State} (h : Inv s) (hx : runCommand w s = .next t) : Inv t := by
  have hgrids := gridsInv_of_runCommand h.gridsInv hx
  have herrClear := errRegs_zero_of_runCommand hx
  obtain ⟨f, hf, rfl⟩ := hasEffect_of_runCommand hx
  obtain ⟨hdone, herr⟩ := f.apply_done_err s
  exact {
    statusHigh := f.apply_status_toNat_lt h.statusHigh
    errFlag := herr
    errKind := f.apply_errKind_le s
    errClear := herrClear
    notDone := fun hnot => Bool.noConfusion (hdone.symm.trans hnot)
    resRgb := hf.resRgb_low h.resRgb
    resOff := hf.resOff_lt h.resOff
    outDims := hf.outDims_ok h.outDims
    complete := hgrids.complete
    colourWf := hgrids.colourWf
    heightWf := hgrids.heightWf }

/-- Every host event keeps the invariant. -/
theorem Inv.served {e : HostEvent} {s t : State} (h : Inv s) (hx : Served s e t) : Inv t := by
  cases hx with
  | register | byte => exact h.congr (by constructor <;> rfl)
  | store n v r => exact h.congr (storeReg_sameOutputs r v s)
  | command v hv hrun => exact (h.congr (storeReg_sameOutputs .cmd v s)).runCommand hrun
  | reset => exact inv_reset.congr (hardwareReset_sameOutputs s)

/-! The obligations -/

/-- Settles O52: an idle step changes nothing, and taking an event touches no field of the invariant before the event is
served. -/
theorem stepKeepsInvariant : Obligations.StepKeepsInvariant := by
  intro s t h hx
  cases hp : s.pending with
  | nil =>
    obtain rfl := Host.Outcome.next.inj ((step_nil hp).symm.trans hx)
    exact h
  | cons e rest =>
    have htaken : Inv { s with pending := rest } := h.congr (by constructor <;> rfl)
    exact htaken.served (served_of_serve ((step_cons hp).symm.trans hx))

/-- Settles O51: the reset state by evaluation; a launch changes no field the invariant speaks of. -/
theorem invariantHoldsAfterReset : Obligations.InvariantHoldsAfterReset :=
  ⟨inv_reset, fun _ _ _ => inv_reset.congr (by constructor <;> rfl)⟩

end Sys2Proof.Machine
